-- ==== Sys2Proof/Word.lean ====
section
/-! DEFINITION. The widths of the machine: command words, samples, lengths, indices, counts. -/

namespace Sys2Proof

/-- A command word, `cmd[31:0]` (30_encoding.md R63). -/
abbrev Word := BitVec 32

/-- A sample, 16 bits two's complement (00_scope.md R7 `SAMPLE_W`); its value is `toInt`. -/
abbrev Sample := BitVec 16

/-- A delay length or a read position, unsigned Q12.4 (00_scope.md R7 `LEN_W`); its value in
sixteenths of a sample is `toNat`. -/
abbrev Length := BitVec 16

/-- The index of a slot of the buffer, `0 .. 4095` (20_memory.md R40). -/
abbrev Slot := BitVec 12

/-- A control input, 14 bits two's complement (30_encoding.md R64). -/
abbrev Control := BitVec 14

end Sys2Proof
end

