-- ==== Sys2Proof/Syntax.lean ====
section
/-! DEFINITION. The seven commands, one constructor per row of the opcode map (30_encoding.md R65). -/

namespace Sys2Proof

/-- What `RDREG` can name (10_state.md R26). -/
inductive Reg where
  | active | target | rampinc | wcur | rdpos | lastout | lfsr | bcnt | mode | status
  deriving DecidableEq, Repr

/-- A command. -/
inductive Instr where
  /-- `NOP` (44_system.md R150). -/
  | nop
  /-- `TICK s`: the input sample (43_sample_processor.md R140). -/
  | tick (x : Sample)
  /-- `CTRL cv, knob`: the two control inputs (40_control_mapper_and_ramp.md R86). -/
  | ctrl (cv knob : Control)
  /-- `TRIG edge`: true for a rising edge (42_burst.md R124). -/
  | trig (edge : Bool)
  /-- `MODE f, d`: the new value of `FBMOD` and of `DLYMOD`, `none` where the flag's write enable is
  0 and its value bit is ignored (44_system.md R151, 30_encoding.md R71, R73). -/
  | mode (fb dly : Option Bool)
  /-- `RDREG r`: the register number (44_system.md R152). -/
  | rdreg (rn : BitVec 4)
  /-- `RESET` (44_system.md R153). -/
  | reset
  deriving DecidableEq, Repr

end Sys2Proof
end

