-- ==== Sys2Proof/WellFormed.lean ====
section
/-! DEFINITION. Which commands exist. Every operand but one fills its field; `RDREG` has registers 0 to
9 only (30_encoding.md R65, R70). -/

namespace Sys2Proof

/-- The command has an encoding that R65 calls legal. -/
def Instr.WellFormed : Instr → Bool
  | .nop => true
  | .tick _ => true
  | .ctrl _ _ => true
  | .trig _ => true
  | .mode _ _ => true
  | .rdreg rn => decide (rn.toNat ≤ 9)
  | .reset => true

end Sys2Proof
end

