-- ==== Sys2Proof/Decode.lean ====
section
/-! DEFINITION. The decoder and the encoder (30_encoding.md sections 3 to 5). A command word is an
integer; the block gives it no byte order (20_memory.md R43, log 12). -/

namespace Sys2Proof

/-- Why a word is illegal (30_encoding.md R70). -/
inductive DecodeError where
  /-- Opcodes 6 to 14. -/
  | reservedOpcode
  /-- A payload field named `0` in R63 is not zero. -/
  | reservedPayload
  /-- `RDREG` of a register number 10 to 15. -/
  | reservedRegister
  deriving DecidableEq, Repr

/-- `cmd[hi:lo]` as `len` bits from bit `lo` up (00_scope.md R8). -/
def field (lo len : Nat) (w : Word) : BitVec len := w.extractLsb' lo len

/-- A `MODE` operand from its value bit and its write enable (30_encoding.md R63, R71). -/
def modeOperand (value enable : Bool) : Option Bool := if enable then some value else none

/-- The word is legal if its reserved field is zero, else illegal. -/
def ifZero (reserved : Bool) (i : Instr) : Except DecodeError Instr :=
  if reserved then .ok i else .error .reservedPayload

/-- `RDREG` of a register number (30_encoding.md R65: `rn <= 9`). -/
def decodeRdreg (rn : BitVec 4) : Except DecodeError Instr :=
  if rn.toNat ≤ 9 then .ok (.rdreg rn) else .error .reservedRegister

/-- The decoder: the opcode, then the payload by its format (30_encoding.md R63 to R65, R72). -/
def decode (w : Word) : Except DecodeError Instr :=
  match (field 28 4 w).toNat with
  | 0 => ifZero (field 0 28 w == 0) .nop
  | 1 => ifZero (field 16 12 w == 0) (.tick (field 0 16 w))
  | 2 => .ok (.ctrl (field 14 14 w) (field 0 14 w))
  | 3 => ifZero (field 1 27 w == 0) (.trig (w.getLsbD 0))
  | 4 => ifZero (field 4 24 w == 0)
      (.mode (modeOperand (w.getLsbD 0) (w.getLsbD 2)) (modeOperand (w.getLsbD 1) (w.getLsbD 3)))
  | 5 => if field 4 24 w == 0 then decodeRdreg (field 0 4 w) else .error .reservedPayload
  | 15 => ifZero (field 0 28 w == 0) .reset
  | _ => .error .reservedOpcode

/-- The value bit and the write enable of a `MODE` operand; the assembler emits 0 for a value that is
ignored (30_encoding.md R71, R73). -/
def modeBits (o : Option Bool) : BitVec 1 × BitVec 1 :=
  (BitVec.ofBool (o.getD false), BitVec.ofBool o.isSome)

/-- The encoder: opcode, then the fields of the format, most significant first (30_encoding.md R63). -/
def encode : Instr → Word
  | .nop => 0#4 ++ 0#28
  | .tick x => 1#4 ++ 0#12 ++ x
  | .ctrl cv knob => 2#4 ++ cv ++ knob
  | .trig edge => 3#4 ++ 0#27 ++ BitVec.ofBool edge
  | .mode fb dly =>
      4#4 ++ 0#24 ++ (modeBits dly).2 ++ (modeBits fb).2 ++ (modeBits dly).1 ++ (modeBits fb).1
  | .rdreg rn => 5#4 ++ 0#24 ++ rn
  | .reset => 15#4 ++ 0#28

/-- The command the decoder reads from a table row's word of `nbits` bits, none where it refuses. -/
def decodeTableWord (nbits w : Nat) : Option Instr :=
  (decode (BitVec.ofNat 32 (w % 2 ^ nbits))).toOption

end Sys2Proof
end

