-- ==== Sys2Proof/Config.lean ====
section
/-! DEFINITION. The parameters of the block (00_scope.md R7) and the values its spec leaves free. -/

namespace Sys2Proof

/-- The entries of R7 marked "parameter", but `BUF_INIT`, which is the buffer's contents. The
operations, `Machine.execWith` and `Machine.stepWith` take a `Config`; the constraints R7 puts on it are
`Config.Valid` in Safety.lean, and the values this hardware takes are `Machine.hw` in
Machine/Parameters.lean. -/
structure Config where
  /-- `LEN_INIT`, the length `ACTIVE` is reset to. -/
  lenInit : Length
  /-- `RAMP_INC`, the value `RAMPINC` is hardwired to. -/
  rampInc : Length
  /-- `TIME_SCALE`, Q16. -/
  timeScale : BitVec 16
  /-- `EXPO_LUT`, 33 entries. -/
  expoLut : List Nat
  /-- `FB_GAIN`, Q16. -/
  fbGain : BitVec 16
  /-- `LFSR_A`, the distance of the first shift of the pseudo-random register, to the left (log 18). -/
  lfsrA : Nat
  /-- `LFSR_B`, the distance of the second shift, to the right (log 18). -/
  lfsrB : Nat
  /-- `LFSR_C`, the distance of the third shift, to the left (log 18). -/
  lfsrC : Nat
  deriving DecidableEq, Repr

/-- Free value (93_implementation_defined.md U3): whether the `n`-th command that `rst_n` cuts short
had already done its write. Log 8. -/
opaque Config.abandonedWrite : Nat → Bool

/-- Free value (93_implementation_defined.md U1): what register number `n` holds between power-on
and the first reset, cut to the register's width. Log 6. -/
opaque Config.powerOnReg : Nat → BitVec 16

end Sys2Proof
end

