-- ==== Sys2Proof/Machine/Parameters.lean ====
section
/-! DEFINITION. The values of 00_scope.md R7: the fixed constants, and the parameters this hardware
takes. -/

namespace Sys2Proof.Machine

/-- `LEN_MIN`, one sample. -/
def lenMin : Int := 16

/-- `LEN_MAX`, 4094 + 15/16 samples. -/
def lenMax : Int := 65519

/-- `CTRL_MAX`. -/
def ctrlMax : Int := 4095

/-- `OS_SHIFT`. -/
def osShift : Nat := 4

/-- `LFSR_SEED`. -/
def lfsrSeed : BitVec 12 := 1

/-- `DLY_MOD_MASK`, as the number of low bits it keeps. Fixed, as R7 has it, where
93_implementation_defined.md U12 lists it as a parameter. DESIGN CHOICE, log 19. -/
def dlyModBits : Nat := 8

/-- `DLY_MOD_BIAS`. Fixed, as R7 has it and not U12. DESIGN CHOICE, log 19. -/
def dlyModBias : Int := 128

/-- `FB_MOD_SHIFT`. Fixed, as R7 has it and not U12. DESIGN CHOICE, log 19. -/
def fbModShift : Nat := 2

/-- `EXPO_LUT` (40_control_mapper_and_ramp.md R83). -/
def expoLut : List Nat :=
  [65536, 66971, 68438, 69936, 71468, 73032, 74632, 76266, 77936] ++
  [79642, 81386, 83169, 84990, 86851, 88752, 90696, 92682, 94711] ++
  [96785, 98905, 101070, 103283, 105545, 107856, 110218, 112631, 115098] ++
  [117618, 120194, 122825, 125515, 128263, 131072]

/-- The parameters with the values this hardware takes. -/
def hw : Config where
  lenInit := 32768
  rampInc := 4
  timeScale := 61440
  expoLut := expoLut
  fbGain := 32768
  lfsrA := 7
  lfsrB := 6
  lfsrC := 9

/-- What a slot not listed in a memory reads as. `BUF_INIT` is unknown (20_memory.md R46): a memory
lists it, and this is the contents of the empty list. DESIGN CHOICE, unsafe, log 2. -/
def bufInit (_ : Nat) : Sample := 0

end Sys2Proof.Machine
end

