-- ==== Sys2Proof/Machine/State.lean ====
section
/-! DEFINITION. The state of the block (10_state.md), the host's side of its pins beside it, and reset. -/

namespace Sys2Proof.Machine

/-- A synchronous fault. The block raises none and has no cause codes (60_exceptions.md R160), so
there is no constructor: no step can end in a fault. Safe. -/
inductive Fault where
  deriving DecidableEq, Repr

/-- Why a step gives no meaning. -/
inductive Refusal where
  /-- `exec` raises it for a command that has no meaning yet. Safe. No arm does. -/
  | notModelled (mnemonic : String)
  /-- `step` raises it for a word other than `RESET` on a block that has not been reset since
  power-on (70_reset_and_hazards.md R181, 93_implementation_defined.md U1). Safe. Log 6. -/
  | beforeReset
  deriving DecidableEq, Repr

/-- The delay buffer `BUF` (10_state.md R20): the listed slots, in rising order, none equal to what an
unlisted slot reads as (`Memory.wf`). A cell is one slot of 16 bits: the block has no bytes
(20_memory.md R40, R43, log 1). -/
abbrev Memory := List (Nat × Sample)

/-- A command's response (30_encoding.md R62): `rsp_data` and `rsp_err`. -/
structure Response where
  data : BitVec 16
  err : Bool
  deriving DecidableEq, Repr

/-- What the host can do to the block (30_encoding.md R61). Logs 3, 7 and 8. -/
inductive PortEvent where
  /-- The word on the command port, accepted next. -/
  | cmd (w : Word)
  /-- A low pulse on `rst_n` while no command is in progress. -/
  | rst
  /-- A low pulse on `rst_n` that cuts short the accepted command `w`. -/
  | rstDuring (w : Word)
  deriving DecidableEq, Repr

/-- The whole state of the block: nine registers and one memory, and nothing else (10_state.md R10,
R32). A command's effect on it is `runCommand` in Machine/Command.lean. -/
structure Block where
  /-- `ACTIVE` (R11). -/
  active : Length
  /-- `TARGET` (R12). -/
  target : Length
  /-- `RAMPINC` (R13). -/
  rampinc : Length
  /-- `WCUR` (R14). -/
  wcur : Slot
  /-- `RDPOS` (R15). -/
  rdpos : Length
  /-- `LASTOUT` (R16). -/
  lastout : Sample
  /-- `LFSR` (R17). -/
  lfsr : BitVec 12
  /-- `BCNT` (R18). -/
  bcnt : BitVec 12
  /-- `MODE` (R19): bit 0 `FBMOD`, bit 1 `DLYMOD`. -/
  mode : BitVec 2
  /-- `BUF` (R20). -/
  buf : Memory
  deriving DecidableEq, Repr

/-- The block with what the host has in hand. The four fields are the model's own: a step has no other
argument to take the command from and no other result to give the response in (10_state.md R32, logs 3
and 4). -/
structure State extends Block where
  /-- A reset has happened since power-on (70_reset_and_hazards.md R181). -/
  inService : Bool
  /-- What the host has issued and the block has not accepted, oldest first (10_state.md R28). -/
  inbox : List PortEvent
  /-- The response of the last step, if it gave one (30_encoding.md R62). -/
  rsp : Option Response
  /-- How many commands `rst_n` has cut short: the argument of the free value. -/
  abandons : Nat
  deriving DecidableEq, Repr

/-- The block right after a reset that found the buffer holding `b` (10_state.md R31). -/
def Block.afterReset (c : Config) (b : Memory) : Block where
  active := c.lenInit
  target := 0
  rampinc := c.rampInc
  wcur := 0
  rdpos := 0
  lastout := 0
  lfsr := lfsrSeed
  bcnt := 0
  mode := 0
  buf := b

/-- The machine right after a reset that found the buffer holding `b`, no command waiting. -/
def State.afterReset (c : Config) (b : Memory) : State where
  toBlock := Block.afterReset c b
  inService := true
  inbox := []
  rsp := none
  abandons := 0

/-- The machine right after reset, with the parameters of this hardware and nothing listed in the
buffer. -/
def State.reset : State := State.afterReset hw []

/-- The block between power-on and its first reset, the buffer holding `b` and every register an
unspecified value (70_reset_and_hazards.md R181). Log 6. -/
def Block.powerOn (b : Memory) : Block where
  active := Config.powerOnReg 0
  target := Config.powerOnReg 1
  rampinc := Config.powerOnReg 2
  wcur := (Config.powerOnReg 3).setWidth 12
  rdpos := Config.powerOnReg 4
  lastout := Config.powerOnReg 5
  lfsr := (Config.powerOnReg 6).setWidth 12
  bcnt := (Config.powerOnReg 7).setWidth 12
  mode := (Config.powerOnReg 8).setWidth 2
  buf := b

/-- The machine between power-on and its first reset. Log 6. -/
def State.powerOn (b : Memory) : State where
  toBlock := Block.powerOn b
  inService := false
  inbox := []
  rsp := none
  abandons := 0

end Sys2Proof.Machine
end

