-- ==== Sys2Proof/Machine/Ops.lean ====
section
/-! DEFINITION. The shared operations: the arithmetic of 00_scope.md R8, the buffer, the response, the
return of every register to its reset value. The block has no exceptions and no return from one
(60_exceptions.md R160, R166): what stands in their place is the error response `State.reject`. -/

namespace Sys2Proof.Machine

/-- `clamp(v, lo, hi)` (R8). -/
def clamp (v lo hi : Int) : Int := if v < lo then lo else if hi < v then hi else v

/-- `asr(v, k)`, the floor of `v / 2^k` (R8). -/
def asr (v : Int) (k : Nat) : Int := v / 2 ^ k

/-- `sat16(v)` (R8). -/
def sat16 (v : Int) : Int := clamp v (-32768) 32767

/-- Strictly rising slots from `lo` up, below 4096, each with a value an unlisted slot does not read
as. -/
def wfFrom : Nat → Memory → Bool
  | _, [] => true
  | lo, (k, v) :: m => decide (lo ≤ k) && decide (k < 4096) && v != bufInit k && wfFrom (k + 1) m

/-- The buffer is in canonical form. -/
def Memory.wf (m : Memory) : Bool := wfFrom 0 m

/-- What slot `a` holds. -/
def lookup : Memory → Nat → Sample
  | [], a => bufInit a
  | (k, v) :: m, a => if a = k then v else lookup m a

/-- The memory with slot `a` not listed. -/
def erase : Memory → Nat → Memory
  | [], _ => []
  | (k, w) :: m, a => if k = a then erase m a else (k, w) :: erase m a

/-- The memory with an entry for slot `a`, which it does not list, in its place. -/
def insertSlot : Memory → Nat → Sample → Memory
  | [], a, v => [(a, v)]
  | (k, w) :: m, a, v => if a < k then (a, v) :: (k, w) :: m else (k, w) :: insertSlot m a v

/-- The memory with slot `a` holding `v`: not listed where an unlisted slot reads `v`. -/
def store (m : Memory) (a : Nat) (v : Sample) : Memory :=
  if v = bufInit a then erase m a else insertSlot (erase m a) a v

/-- `MemRead(addr, 1)` (R8, 20_memory.md R43, R44: an index is always below 4096). -/
def memRead (m : Memory) (i : Slot) : Sample := lookup m i.toNat

/-- `MemWrite(addr, 1, v)` (R8, 20_memory.md R43, R44). -/
def memWrite (m : Memory) (i : Slot) (v : Sample) : Memory := store m i.toNat v

/-- The buffer that holds `init i` in slot `i`: `BUF_INIT` as the memory a power-on finds (20_memory.md
R46). -/
def bufOf (init : Slot → Sample) : Memory :=
  ((List.range 4096).map fun k => (k, init (BitVec.ofNat 12 k))).filter fun p => p.2 != bufInit p.1

/-- `rsp <- (data, 0)` (R8, 30_encoding.md R62). -/
def answer (data : BitVec 16) : Response := ⟨data, false⟩

/-- `rsp <- (0, 1)`: the answer to an illegal word (30_encoding.md R70, log 5). -/
def illegal : Response := ⟨0, true⟩

/-- Every register at its reset value, the buffer kept (10_state.md R31, 44_system.md R153,
70_reset_and_hazards.md R180; `RAMPINC` by log 9). -/
def Block.resetRegs (c : Config) (b : Block) : Block := Block.afterReset c b.buf

/-- The machine after a command that left the block and gave the response in `r`. -/
def State.commit (s : State) (r : Block × Response) : State :=
  { s with toBlock := r.1, rsp := some r.2 }

/-- The machine after a word that changed nothing and was flagged (30_encoding.md R70, log 5). -/
def State.reject (s : State) : State := s.commit (s.toBlock, illegal)

end Sys2Proof.Machine
end

