-- ==== Sys2Proof/Machine/Flags.lean ====
section
/-! DEFINITION. The mode flags (10_state.md R19), the derived status bits (R29), and the output pins
(30_encoding.md R61). The block has no arithmetic condition codes. -/

namespace Sys2Proof.Machine

/-- `FBMOD`, bit 0 of `MODE`. -/
def Block.fbmod (b : Block) : Bool := b.mode.getLsbD 0

/-- `DLYMOD`, bit 1 of `MODE`. -/
def Block.dlymod (b : Block) : Bool := b.mode.getLsbD 1

/-- `MODE` with each flag replaced where a value is given (44_system.md R151). -/
def writeFlags (fb dly : Option Bool) (m : BitVec 2) : BitVec 2 :=
  BitVec.ofBool (dly.getD (m.getLsbD 1)) ++ BitVec.ofBool (fb.getD (m.getLsbD 0))

/-- `STATUS[0]`, and the pin `burst_active`. -/
def Block.burstActive (b : Block) : Bool := b.bcnt != 0

/-- `STATUS[1]`, and the pin `settled`. -/
def Block.settled (b : Block) : Bool :=
  decide ((b.active.toNat : Int) = clamp b.target.toNat lenMin lenMax)

/-- `STATUS`. -/
def Block.status (b : Block) : BitVec 2 := BitVec.ofBool b.settled ++ BitVec.ofBool b.burstActive

/-- The pin `audio_out`. -/
def Block.audioOut (b : Block) : BitVec 16 := b.lastout

/-- The pin `rsp_valid`; `rsp_data` and `rsp_err` are those of `rsp` while it is high. -/
def State.rspValid (s : State) : Bool := s.rsp.isSome

/-- The pin `cmd_ready`: low while `rst_n` is low (70_reset_and_hazards.md R180). Between two steps
the block is otherwise never busy (30_encoding.md R62). An event `rstDuring w` is one step for the
acceptance of `w`, where R62 has the pin high, and the low level that cuts it short, where R180 has it
low: the state before that step shows the low level. DESIGN CHOICE, log 20. -/
def State.cmdReady (s : State) : Bool :=
  match s.inbox with
  | [] => true
  | .cmd _ :: _ => true
  | .rst :: _ => false
  | .rstDuring _ :: _ => false

end Sys2Proof.Machine
end

