-- ==== Sys2Proof/Machine/Operands.lean ====
section
/-! DEFINITION. The values of the operands (30_encoding.md R64) and the register file as `RDREG` sees
it (10_state.md R26). -/

namespace Sys2Proof.Machine

/-- `sext_16`: the value of a sample. -/
def sampleValue (x : Sample) : Int := x.toInt

/-- `sext_14`: the value of a control input. -/
def controlValue (x : Control) : Int := x.toInt

/-- The register with a number, none for the reserved numbers 10 to 15 (R26). -/
def regOfNum (rn : BitVec 4) : Option Reg :=
  match rn.toNat with
  | 0 => some .active
  | 1 => some .target
  | 2 => some .rampinc
  | 3 => some .wcur
  | 4 => some .rdpos
  | 5 => some .lastout
  | 6 => some .lfsr
  | 7 => some .bcnt
  | 8 => some .mode
  | 9 => some .status
  | _ => none

/-- A register in the low bits of the 16-bit response, the bits above its width zero (R26,
44_system.md R152). -/
def Block.readReg (b : Block) : Reg → BitVec 16
  | .active => b.active
  | .target => b.target
  | .rampinc => b.rampinc
  | .wcur => b.wcur.setWidth 16
  | .rdpos => b.rdpos
  | .lastout => b.lastout
  | .lfsr => b.lfsr.setWidth 16
  | .bcnt => b.bcnt.setWidth 16
  | .mode => b.mode.setWidth 16
  | .status => b.status.setWidth 16

end Sys2Proof.Machine
end

