-- ==== Sys2Proof/Machine/System.lean ====
section
/-! DEFINITION. `NOP`, `MODE`, `RDREG` and `RESET` (44_system.md). -/

namespace Sys2Proof.Machine

/-- `NOP` on the block (R150). -/
def runNop (b : Block) : Block × Response := (b, answer 0)

/-- `MODE f, d` on the block (R151). -/
def runMode (fb dly : Option Bool) (b : Block) : Block × Response :=
  ({ b with mode := writeFlags fb dly b.mode }, answer 0)

/-- `RDREG r` on the block (R152); a reserved number is an illegal command (30_encoding.md R70), which
no word decodes to (log 13). -/
def runRdreg (rn : BitVec 4) (b : Block) : Block × Response :=
  match regOfNum rn with
  | some r => (b, answer (b.readReg r))
  | none => (b, illegal)

/-- `RESET` on the block (R153). -/
def runReset (c : Config) (b : Block) : Block × Response := (b.resetRegs c, answer 0)

/-- `NOP` (R150). -/
def execNop (s : State) : Host.Outcome State Fault Refusal := .next (s.commit (runNop s.toBlock))

/-- `MODE f, d` (R151). -/
def execMode (fb dly : Option Bool) (s : State) : Host.Outcome State Fault Refusal :=
  .next (s.commit (runMode fb dly s.toBlock))

/-- `RDREG r` (R152). -/
def execRdreg (rn : BitVec 4) (s : State) : Host.Outcome State Fault Refusal :=
  .next (s.commit (runRdreg rn s.toBlock))

/-- `RESET` (R153), which puts the block in service (70_reset_and_hazards.md R181). -/
def execReset (s : State) : Host.Outcome State Fault Refusal :=
  .next { s.commit (runReset hw s.toBlock) with inService := true }

end Sys2Proof.Machine
end

