-- ==== Sys2Proof/Machine/Burst.lean ====
section
/-! DEFINITION. The burst generator: pseudo-random register, trigger, window, perturbations
(42_burst.md). -/

namespace Sys2Proof.Machine

/-- `lfsr_advance(r)` before the mask: three shift-and-xor steps on an unbounded integer (R121). The
directions left, right, left are fixed and the three distances are the parameters: R7 does not say
whether its parameter triple takes the directions in. DESIGN CHOICE, log 18. -/
def lfsrSteps (c : Config) (r : Nat) : Nat :=
  let t1 := r ^^^ (r <<< c.lfsrA)
  let t2 := t1 ^^^ (t1 >>> c.lfsrB)
  t2 ^^^ (t2 <<< c.lfsrC)

/-- `lfsr_advance(r)` (R121). -/
def lfsrAdvance (c : Config) (r : BitVec 12) : BitVec 12 := BitVec.ofNat 12 (lfsrSteps c r.toNat)

/-- `act` of `burst_step` (R125). -/
def burstAct (bcnt : BitVec 12) : Bool := bcnt != 0

/-- `r` of `burst_step`, which is also what `LFSR` holds after it (R125). -/
def burstReg (c : Config) (lfsr bcnt : BitVec 12) : BitVec 12 :=
  if burstAct bcnt then lfsrAdvance c lfsr else lfsr

/-- `BCNT` after `burst_step` (R125). -/
def burstCount (bcnt : BitVec 12) : BitVec 12 := if burstAct bcnt then bcnt - 1 else bcnt

/-- `perturb_len(active, act, r)` under `DLYMOD` (R126). -/
def perturbLen (active : Length) (act dlymod : Bool) (r : BitVec 12) : Length :=
  if act && dlymod then
    BitVec.ofInt 16
      (clamp (active.toNat + (r.extractLsb' 0 dlyModBits).toNat - dlyModBias) lenMin lenMax)
  else active

/-- `perturb_gain(act, r)` (R127). -/
def perturbGain (c : Config) (act : Bool) (r : BitVec 12) : BitVec 16 :=
  if act then BitVec.ofInt 16 (max 0 ((c.fbGain.toNat : Int) - (r.toNat <<< fbModShift : Nat)))
  else c.fbGain

/-- The window length a rising edge loads, `ACTIVE >> 4` (R124). -/
def windowLen (active : Length) : BitVec 12 := BitVec.ofNat 12 (active.toNat >>> osShift)

/-- `TRIG edge` on the block (R124). -/
def runTrig (edge : Bool) (b : Block) : Block × Response :=
  ({ b with bcnt := if edge then windowLen b.active else b.bcnt }, answer 0)

/-- `TRIG edge` (R124). -/
def execTrig (edge : Bool) (s : State) : Host.Outcome State Fault Refusal :=
  .next (s.commit (runTrig edge s.toBlock))

end Sys2Proof.Machine
end

