-- ==== Sys2Proof/Machine/DelayLine.lean ====
section
/-! DEFINITION. The circular delay line: read position, interpolation, feedback mixer
(41_delay_line.md). -/

namespace Sys2Proof.Machine

/-- `li`, the integer part of a length, in samples (R102). -/
def lenInt (efflen : Length) : Nat := efflen.toNat >>> osShift

/-- `fr`, the fractional part of a length, in sixteenths (R102). -/
def lenFrac (efflen : Length) : Nat := (efflen.extractLsb' 0 4).toNat

/-- `ia`, the slot written `li` ticks ago (R102). -/
def slotA (w : Slot) (efflen : Length) : Slot := BitVec.ofInt 12 (w.toNat - lenInt efflen)

/-- `ib`, its older neighbour (R102). -/
def slotB (w : Slot) (efflen : Length) : Slot := BitVec.ofInt 12 (w.toNat - lenInt efflen - 1)

/-- `rdpos`, the read position in Q12.4 (R102). -/
def readPos (w : Slot) (efflen : Length) : Length :=
  BitVec.ofInt 16 ((w.toNat : Int) * 2 ^ osShift - efflen.toNat)

/-- `read_interp` on two samples (R104). -/
def interp (a b : Sample) (fr : Nat) : Sample :=
  BitVec.ofInt 16 (sampleValue a + asr ((sampleValue b - sampleValue a) * fr) 4)

/-- `read_interp`: the two reads and the interpolation (R102, R104). -/
def readInterp (m : Memory) (w : Slot) (efflen : Length) : Sample :=
  interp (memRead m (slotA w efflen)) (memRead m (slotB w efflen)) (lenFrac efflen)

/-- `fb_mix(x, y, g)` under `FBMOD` (R105). -/
def fbMix (fbmod : Bool) (x y : Sample) (g : BitVec 16) : Sample :=
  if fbmod then BitVec.ofInt 16 (sat16 (sampleValue x + asr (sampleValue y * g.toNat) 16)) else x

end Sys2Proof.Machine
end

