-- ==== Sys2Proof/Machine/Mapper.lean ====
section
/-! DEFINITION. The exponential control mapper and `CTRL`, the delay-time ramp
(40_control_mapper_and_ramp.md). -/

namespace Sys2Proof.Machine

/-- `combine(cv, knob)` (R81). -/
def combine (cv knob : Control) : BitVec 12 :=
  BitVec.ofInt 12 (clamp (controlValue cv + controlValue knob) 0 ctrlMax)

/-- `invert(u)` (R82). -/
def invert (u : BitVec 12) : BitVec 12 := BitVec.ofInt 12 (ctrlMax - u.toNat)

/-- `EXPO_LUT[i]` (R83). -/
def lutAt (c : Config) (i : Nat) : Int := c.expoLut.getD i 0

/-- `mant` of R84: the table read at `v[8:4]`, piecewise linear in `v[3:0]`. -/
def mantissa (c : Config) (v : BitVec 12) : Int :=
  let idx := (v.extractLsb' 4 5).toNat
  let fr := (v.extractLsb' 0 4).toNat
  lutAt c idx + asr ((lutAt c (idx + 1) - lutAt c idx) * fr) 4

/-- `expo(v)` (R84), exact: no width is imposed on it (log 16). -/
def expo (c : Config) (v : BitVec 12) : Int := asr (mantissa c v) (8 - (v.extractLsb' 9 3).toNat)

/-- The mapper from the inverted input on (R85). -/
def scaleTarget (c : Config) (v : BitVec 12) : Length :=
  BitVec.ofInt 16 (clamp (asr (expo c v * c.timeScale.toNat) 16) lenMin lenMax)

/-- `map_target(cv, knob)` (R85). -/
def mapTarget (c : Config) (cv knob : Control) : Length := scaleTarget c (invert (combine cv knob))

/-- `ramp_step(active, target, inc)` (R88). -/
def rampStep (active target inc : Length) : Length :=
  let dest := clamp target.toNat lenMin lenMax
  let d := dest - active.toNat
  if (d.natAbs : Int) < inc.toNat then BitVec.ofInt 16 dest
  else if 0 < d then BitVec.ofInt 16 (active.toNat + inc.toNat)
  else BitVec.ofInt 16 (active.toNat - inc.toNat)

/-- `CTRL cv, knob` on the block (R86). -/
def runCtrl (c : Config) (cv knob : Control) (b : Block) : Block × Response :=
  ({ b with target := mapTarget c cv knob }, answer 0)

/-- `CTRL cv, knob` (R86). -/
def execCtrl (cv knob : Control) (s : State) : Host.Outcome State Fault Refusal :=
  .next (s.commit (runCtrl hw cv knob s.toBlock))

end Sys2Proof.Machine
end

