-- ==== Sys2Proof/Machine/Tick.lean ====
section
/-! DEFINITION. The sample processor: the audio tick, step by step as 43_sample_processor.md R141 orders
it. Each intermediate value of R141 is a function of the block the tick began in. -/

namespace Sys2Proof.Machine

/-- Step 1: `ACTIVE` after the ramp. -/
def tickActive (b : Block) : Length := rampStep b.active b.target b.rampinc

/-- Step 2: the tick is burst-active. -/
def tickAct (b : Block) : Bool := burstAct b.bcnt

/-- Step 2: `r`, and `LFSR` after the tick. -/
def tickReg (c : Config) (b : Block) : BitVec 12 := burstReg c b.lfsr b.bcnt

/-- Step 3: `efflen`, the length the tick reads at. -/
def tickLen (c : Config) (b : Block) : Length :=
  perturbLen (tickActive b) (tickAct b) b.dlymod (tickReg c b)

/-- Step 3: `g`, the tick's feedback gain. -/
def tickGain (c : Config) (b : Block) : BitVec 16 := perturbGain c (tickAct b) (tickReg c b)

/-- Step 4: `y`, the output sample. -/
def tickOut (c : Config) (b : Block) : Sample := readInterp b.buf b.wcur (tickLen c b)

/-- Step 5: `v`, the sample written. -/
def tickWritten (c : Config) (x : Sample) (b : Block) : Sample :=
  fbMix b.fbmod x (tickOut c b) (tickGain c b)

/-- `TICK x` on the block (R140, R141): the writes of all the steps, and the response. -/
def runTick (c : Config) (x : Sample) (b : Block) : Block × Response :=
  ({ b with
      active := tickActive b
      lfsr := tickReg c b
      bcnt := burstCount b.bcnt
      buf := memWrite b.buf b.wcur (tickWritten c x b)
      wcur := b.wcur + 1
      rdpos := readPos b.wcur (tickLen c b)
      lastout := tickOut c b },
    answer (tickOut c b))

/-- `TICK x` (R140). -/
def execTick (x : Sample) (s : State) : Host.Outcome State Fault Refusal :=
  .next (s.commit (runTick hw x s.toBlock))

end Sys2Proof.Machine
end

