-- ==== Sys2Proof/Machine/Command.lean ====
section
/-! DEFINITION. The step of the block as 10_state.md R32 has it: a function of the parameters, the command
and the block, and of nothing else, giving the block after it and the response. -/

namespace Sys2Proof.Machine

/-- What command `i` does to the block, with parameters `c`. -/
def runCommand (c : Config) (i : Instr) (b : Block) : Block × Response :=
  match i with
  | .nop => runNop b
  | .tick x => runTick c x b
  | .ctrl cv knob => runCtrl c cv knob b
  | .trig edge => runTrig edge b
  | .mode fb dly => runMode fb dly b
  | .rdreg rn => runRdreg rn b
  | .reset => runReset c b

/-- Command `i` on a machine with parameters `c`; `exec` is this at `hw`. `RESET` puts the block in
service (70_reset_and_hazards.md R181). -/
def execWith (c : Config) (i : Instr) (s : State) : Host.Outcome State Fault Refusal :=
  .next { s.commit (runCommand c i s.toBlock) with inService := i == .reset || s.inService }

end Sys2Proof.Machine
end

