-- ==== Sys2Proof/Machine/Dispatch.lean ====
section
/-! DEFINITION. One arm per command. -/

namespace Sys2Proof.Machine

def exec (i : Instr) (s : State) : Host.Outcome State Fault Refusal :=
  match i with
  | .nop => Sys2Proof.Machine.execNop s
  | .tick x => Sys2Proof.Machine.execTick x s
  | .ctrl cv knob => Sys2Proof.Machine.execCtrl cv knob s
  | .trig edge => Sys2Proof.Machine.execTrig edge s
  | .mode fb dly => Sys2Proof.Machine.execMode fb dly s
  | .rdreg rn => Sys2Proof.Machine.execRdreg rn s
  | .reset => Sys2Proof.Machine.execReset s

end Sys2Proof.Machine
end

