-- ==== Sys2Proof/Machine/Port.lean ====
section
/-! DEFINITION. What the block does with one event of the host: a word on the command port
(30_encoding.md R62, R70), a pulse on `rst_n` (70_reset_and_hazards.md R180), nothing (60_exceptions.md
R173). Each takes the parameters, or what runs a command with them. -/

namespace Sys2Proof.Machine

/-- What runs a command: `exec`, or `execWith c` for other parameters. -/
abbrev Executor := Instr → State → Host.Outcome State Fault Refusal

/-- No command waits: the block holds its state and gives no response (R173, logs 4 and 11). -/
def idle (s : State) : State := { s with rsp := none }

/-- A block that has not been reset runs `RESET` and nothing else (70_reset_and_hazards.md R181,
93_implementation_defined.md U1, log 6). -/
def mayRun (i : Instr) (s : State) : Bool := s.inService || i == .reset

/-- The word `w` is accepted (30_encoding.md R62): a legal one runs, an illegal one is ignored and
flagged (R70, log 5). -/
def accept (ex : Executor) (w : Word) (s : State) : Host.Outcome State Fault Refusal :=
  match decode w with
  | .ok i => if mayRun i s then ex i s else .refused .beforeReset
  | .error _ => if s.inService then .next s.reject else .refused .beforeReset

/-- `rst_n` goes low and high again between two commands: what `RESET` does, with no response
(70_reset_and_hazards.md R180, log 7). -/
def resetPin (c : Config) (s : State) : State :=
  { s with toBlock := s.toBlock.resetRegs c, inService := true, rsp := none }

/-- The buffer as the whole of command `w` would leave it. -/
def bufAfter (ex : Executor) (w : Word) (s : State) : Memory :=
  match decode w with
  | .ok i =>
    match ex i s with
    | .next t => t.buf
    | .fault _ => s.buf
    | .refused _ => s.buf
  | .error _ => s.buf

/-- `rst_n` cuts short command `w`: the registers are reset, no response is given, and the slot the
command was writing has its old value or the new one, which is free (70_reset_and_hazards.md R180,
93_implementation_defined.md U3, log 8). A block that has never been reset is no exception, whatever
`w` is: the spec does not say which of R180 and the refusal of R181 and U1 holds there, and the model
takes R180. DESIGN CHOICE, unsafe, log 17. -/
def abandon (c : Config) (ex : Executor) (w : Word) (s : State) : State :=
  resetPin c { s with
    buf := if Config.abandonedWrite s.abandons then bufAfter ex w s else s.buf
    abandons := s.abandons + 1 }

/-- One step: the oldest event of the host's stream, to completion (20_memory.md R50, 60_exceptions.md
R164). -/
def stepBy (c : Config) (ex : Executor) (s : State) : Host.Outcome State Fault Refusal :=
  match s.inbox with
  | [] => .next (idle s)
  | .cmd w :: rest => accept ex w { s with inbox := rest }
  | .rst :: rest => .next (resetPin c { s with inbox := rest })
  | .rstDuring w :: rest => .next (abandon c ex w { s with inbox := rest })

/-- `s` with a command word next on the port of a block in service: the host issues it (logs 3 and
12). -/
def putWord (s : State) (w : Word) : State := { s with inService := true, inbox := .cmd w :: s.inbox }

end Sys2Proof.Machine
end

