-- ==== Sys2Proof/Machine/Step.lean ====
section
/-! DEFINITION. The step of this hardware, and the step with any parameters (00_scope.md R7). -/

namespace Sys2Proof.Machine

/-- One step of this hardware. -/
def step (s : State) : Host.Outcome State Fault Refusal := stepBy hw exec s

/-- One step with parameters `c`; `step` is this at `hw`. -/
def stepWith (c : Config) (s : State) : Host.Outcome State Fault Refusal := stepBy c (execWith c) s

/-- `s` with the word of a table row next on the command port. -/
def State.withFetchWord (s : State) (nbits w : Nat) : State := putWord s (BitVec.ofNat 32 (w % 2 ^ nbits))

end Sys2Proof.Machine
end

