-- ==== Sys2Proof/Safety.lean ====
section
/-! DEFINITION. What claims assume of a run: the parameters' constraints (00_scope.md R7), the
invariants of a block in service (10_state.md R30), the streams the spec gives a meaning
(30_encoding.md R70). -/

namespace Sys2Proof

open Machine

/-- The constraints of 00_scope.md R7 on the parameters. Those on `TIME_SCALE` and `FB_GAIN` hold by
their width. -/
structure Config.Valid (c : Config) : Prop where
  lenInit_ge : lenMin ≤ c.lenInit.toNat
  lenInit_le : (c.lenInit.toNat : Int) ≤ lenMax
  rampInc_pos : 1 ≤ c.rampInc.toNat
  lut_size : c.expoLut.length = 33
  lut_mono : ∀ i, i < 32 → lutAt c i ≤ lutAt c (i + 1)
  lut_first : lutAt c 0 = 65536
  lut_last : lutAt c 32 = 131072
  lfsr_bijective : Function.Bijective (lfsrAdvance c)
  lfsr_zero : lfsrAdvance c 0 = 0

namespace Machine

/-- A length in `LEN_MIN .. LEN_MAX`. -/
abbrev InRange (l : Length) : Prop := lenMin ≤ l.toNat ∧ (l.toNat : Int) ≤ lenMax

/-- 10_state.md R30 (a) to (d), with `RAMPINC` hardwired to `RAMP_INC` (R13). R30 (e) holds by the
width of `WCUR`. -/
abbrev RegsOk (c : Config) (b : Block) : Prop :=
  InRange b.active ∧ b.lfsr ≠ 0 ∧ b.bcnt.toNat ≤ 4094 ∧ (b.target = 0 ∨ InRange b.target) ∧
    b.rampinc = c.rampInc

/-- The buffer is in canonical form, and a block in service keeps R30. -/
abbrev Inv (c : Config) (s : State) : Prop :=
  Memory.wf s.buf = true ∧ (s.inService = true → RegsOk c s.toBlock)

/-- The word is one 30_encoding.md R65 gives a meaning. -/
def legalWord (w : Word) : Bool :=
  match decode w with
  | .ok _ => true
  | .error _ => false

/-- A safe run starts on a block in service with a stream of legal words; R70 gives an illegal word no
meaning to prove things from. -/
def SafeStart (s : State) : Prop :=
  s.inService = true ∧ ∀ e ∈ s.inbox, ∃ w, e = .cmd w ∧ legalWord w = true

/-- The command is an audio tick (00_scope.md R9). -/
def isTick : Instr → Bool
  | .nop => false
  | .tick _ => true
  | .ctrl _ _ => false
  | .trig _ => false
  | .mode _ _ => false
  | .rdreg _ => false
  | .reset => false

/-- A run of legal commands with parameters `c`: command number `t` takes `st t` to `st (t + 1)`. -/
def Execution (c : Config) (cmds : Nat → Instr) (st : Nat → State) : Prop :=
  ∀ t, execWith c (cmds t) (st t) = .next (st (t + 1))

/-- A run of ticks with parameters `c` and input samples `x`. -/
def TickRun (c : Config) (x : Nat → Sample) (st : Nat → State) : Prop :=
  Execution c (fun t => .tick (x t)) st

/-- The command is a `CTRL` or a `RESET`, the two that write `TARGET` (10_state.md R26). -/
def writesTarget : Instr → Bool
  | .nop => false
  | .tick _ => false
  | .ctrl _ _ => true
  | .trig _ => false
  | .mode _ _ => false
  | .rdreg _ => false
  | .reset => true

/-- How many of the first `n` commands of a run are ticks. -/
def ticksBefore (cmds : Nat → Instr) : Nat → Nat
  | 0 => 0
  | n + 1 => ticksBefore cmds n + if isTick (cmds n) then 1 else 0

/-- How many of the first `n` commands of a run are burst-active ticks (00_scope.md R9). -/
def burstTicksBefore (cmds : Nat → Instr) (st : Nat → State) : Nat → Nat
  | 0 => 0
  | n + 1 =>
      burstTicksBefore cmds st n + if isTick (cmds n) && (st n).burstActive then 1 else 0

/-- The states are the same but for the response of the last command, which is no state of the block
(10_state.md R32). -/
def SameState (s t : State) : Prop := { s with rsp := none } = { t with rsp := none }

end Machine

end Sys2Proof
end

