-- ==== Sys2Proof/Certificates/Slice0/Obligations.lean ====
section
/-! DEFINITION. The statements for the provers. Each docstring names the rule of spec/ it formalises, or
the log entry whose choice it rests on. -/

open Sys2Proof Sys2Proof.Machine

/-! ### Encoding -/

/-- Words written out from the field layout of 30_encoding.md section 3. -/
def Obligations.KnownWordsDecode : Prop :=
  decode 0x00000000 = .ok .nop ∧
  decode 0x10008000 = .ok (.tick (-32768)) ∧
  decode 0x22EE3C18 = .ok (.ctrl 3000 (-1000)) ∧
  decode 0x30000001 = .ok (.trig true) ∧
  decode 0x4000000E = .ok (.mode (some false) (some true)) ∧
  decode 0x40000001 = .ok (.mode none none) ∧
  decode 0x50000009 = .ok (.rdreg 9) ∧
  decode 0xF0000000 = .ok .reset ∧
  decode 0x10010000 = .error .reservedPayload ∧
  decode 0x5000000A = .error .reservedRegister ∧
  decode 0x60000000 = .error .reservedOpcode

/-- R65: a word decodes to a command exactly when it matches that command's row, so the rows select
disjoint sets, and a word that matches no row is illegal. The operands are R63's fields. -/
def Obligations.DecodeFollowsOpcodeMap : Prop :=
  ∀ w : Word,
    (w &&& 0xFFFFFFFF = 0x00000000 ↔ decode w = .ok .nop) ∧
    (w &&& 0xFFFF0000 = 0x10000000 ↔ decode w = .ok (.tick (w.extractLsb' 0 16))) ∧
    (w &&& 0xF0000000 = 0x20000000 ↔
      decode w = .ok (.ctrl (w.extractLsb' 14 14) (w.extractLsb' 0 14))) ∧
    (w &&& 0xFFFFFFFE = 0x30000000 ↔ decode w = .ok (.trig (w.getLsbD 0))) ∧
    (w &&& 0xFFFFFFF0 = 0x40000000 ↔
      decode w = .ok (.mode (if w.getLsbD 2 then some (w.getLsbD 0) else none)
        (if w.getLsbD 3 then some (w.getLsbD 1) else none))) ∧
    (w &&& 0xFFFFFFF0 = 0x50000000 ∧ (w.extractLsb' 0 4).toNat ≤ 9 ↔
      decode w = .ok (.rdreg (w.extractLsb' 0 4))) ∧
    (w &&& 0xFFFFFFFF = 0xF0000000 ↔ decode w = .ok .reset) ∧
    ((w &&& 0xFFFFFFFF ≠ 0x00000000 ∧ w &&& 0xFFFF0000 ≠ 0x10000000 ∧
      w &&& 0xF0000000 ≠ 0x20000000 ∧ w &&& 0xFFFFFFFE ≠ 0x30000000 ∧
      w &&& 0xFFFFFFF0 ≠ 0x40000000 ∧
      ¬(w &&& 0xFFFFFFF0 = 0x50000000 ∧ (w.extractLsb' 0 4).toNat ≤ 9) ∧
      w &&& 0xFFFFFFFF ≠ 0xF0000000) ↔
      ∃ e, decode w = .error e)

/-- The decoder gives back every command the encoder encodes (30_encoding.md sections 3 and 4). -/
def Obligations.DecodeOfEncode : Prop :=
  ∀ i : Instr, i.WellFormed = true → decode (encode i) = .ok i

/-- The encoder gives back every legal word, but for the `MODE` value bits that are ignored, which it
emits as 0 (30_encoding.md sections 5 and 6). -/
def Obligations.EncodeOfDecode : Prop :=
  ∀ (w : Word) (i : Instr), decode w = .ok i →
    i.WellFormed = true ∧
    encode i =
      if w &&& 0xF0000000 = 0x40000000 then
        w &&& (if w.getLsbD 2 then 0xFFFFFFFF else 0xFFFFFFFE)
          &&& (if w.getLsbD 3 then 0xFFFFFFFF else 0xFFFFFFFD)
      else w

/-! ### The command port -/

/-- A step runs the oldest command of the host's stream, taken off the stream (30_encoding.md R62,
logs 3 and 6); `withFetchWord` puts one there (log 12). -/
def Obligations.StepRunsDecodedCommand : Prop :=
  (∀ (s : State) (w : Word) (rest : List PortEvent) (i : Instr),
    s.inbox = .cmd w :: rest → decode w = .ok i → (s.inService = true ∨ i = .reset) →
    step s = exec i { s with inbox := rest }) ∧
  (∀ (s : State) (w : Word) (i : Instr), decode w = .ok i →
    step (s.withFetchWord 32 w.toNat) = exec i { s with inService := true })

/-- An illegal word changes no register and no slot and is answered (0, 1) (30_encoding.md section 5).
That the model runs it so and does not refuse it is log 5; that `RDREG` of a reserved number, which no
word decodes to, does the same is log 13. -/
def Obligations.IllegalWordIsFlaggedAndIgnored : Prop :=
  (∀ (s : State) (w : Word) (rest : List PortEvent) (e : DecodeError),
    s.inbox = .cmd w :: rest → decode w = .error e → s.inService = true →
    step s = .next { s with inbox := rest, rsp := some ⟨0, true⟩ }) ∧
  (∀ (s : State) (rn : BitVec 4), 10 ≤ rn.toNat →
    exec (.rdreg rn) s = .next { s with rsp := some ⟨0, true⟩ })

/-- With no command waiting the block holds its state (60_exceptions.md R173); that no response is
valid then is log 4. -/
def Obligations.IdleBlockHoldsItsState : Prop :=
  ∀ s : State, s.inbox = [] → step s = .next { s with rsp := none }

/-- Before the first reset every word but `RESET` is refused, and `RESET` puts the block in the state
after reset (70_reset_and_hazards.md R181, log 6). -/
def Obligations.OnlyResetRunsBeforeReset : Prop :=
  (∀ (s : State) (w : Word) (rest : List PortEvent),
    s.inbox = .cmd w :: rest → s.inService = false → decode w ≠ .ok .reset →
    step s = .refused .beforeReset) ∧
  (∀ b : Memory, step { State.powerOn b with inbox := [.cmd 0xF0000000] } =
    .next { State.afterReset hw b with rsp := some ⟨0, false⟩ })

/-- A low pulse on `rst_n` does to the block what `RESET` does, and accepts no command
(70_reset_and_hazards.md R180); that it is one step with no response is log 7. -/
def Obligations.ResetPinActsAsReset : Prop :=
  ∀ (s : State) (rest : List PortEvent), s.inbox = .rst :: rest →
    s.cmdReady = false ∧
    step s = .next { State.afterReset hw s.buf with inbox := rest, abandons := s.abandons } ∧
    exec .reset { s with inbox := rest } =
      .next { State.afterReset hw s.buf with
        inbox := rest, abandons := s.abandons, rsp := some ⟨0, false⟩ }

/-- A command that `rst_n` cuts short leaves every register at its reset value and every slot as it
was, but for the slot at the old `WCUR`, which may hold the value a `TICK` was writing
(70_reset_and_hazards.md R180, 93_implementation_defined.md U3). The model's own: which of the two it
is, free, and that no response is given, of which the spec says nothing (log 8); that a block never
reset is treated alike (log 17); that `cmd_ready` shows low before the one step that stands for the
acceptance and the pulse (log 20). -/
def Obligations.AbandonedCommandTouchesOneSlot : Prop :=
  ∀ (s : State) (w : Word) (rest : List PortEvent), s.inbox = .rstDuring w :: rest →
    s.cmdReady = false ∧
    ∃ m : Memory,
      step s = .next { State.afterReset hw m with inbox := rest, abandons := s.abandons + 1 } ∧
      (∀ j : Slot, j ≠ s.wcur → memRead m j = memRead s.buf j) ∧
      (memRead m s.wcur = memRead s.buf s.wcur ∨
        ∃ x, decode w = .ok (.tick x) ∧ memRead m s.wcur = tickWritten hw x s.toBlock)

/-- R190: every command, legal or illegal, finishes and answers, none hangs the block or makes it
refuse further commands, and a run ends when the host's stream ends, with nothing in flight. -/
def Obligations.EveryCommandFinishesAndAnswers : Prop :=
  ∀ s : State, s.inService = true →
    (∀ (w : Word) (rest : List PortEvent), s.inbox = .cmd w :: rest →
      ∃ t, step s = .next t ∧ t.rsp.isSome = true ∧ t.inbox = rest ∧ t.inService = true) ∧
    (∃ t, core.run s.inbox.length s = .next t ∧ t.inbox = [] ∧ t.inService = true)

/-! ### The commands -/

/-- R150. -/
def Obligations.NopAnswersAndChangesNothing : Prop :=
  (∀ s : State, exec .nop s = .next { s with rsp := some ⟨0, false⟩ }) ∧
  (∀ w : Word, decode w = .ok .nop ↔ w = 0) ∧
  (∀ w : Word, w.extractLsb' 28 4 = 0 → w ≠ 0 → ∃ e, decode w = .error e)

/-- R86: `TARGET` and nothing else is written, with the value of the mapper on the clamped sum, and the
two ends of its range. -/
def Obligations.CtrlWritesMappedTarget : Prop :=
  (∀ (s : State) (cv knob : Control),
    ∃ t : Length,
      exec (.ctrl cv knob) s = .next { s with target := t, rsp := some ⟨0, false⟩ } ∧
      (t.toNat : Int) = clamp
        (expo hw (BitVec.ofInt 12 (4095 - clamp (cv.toInt + knob.toInt) 0 4095)) * 61440 / 65536)
        16 65519 ∧
      (cv.toInt + knob.toInt ≤ 0 → t.toNat = 61357) ∧
      (4095 ≤ cv.toInt + knob.toInt → t.toNat = 240)) ∧
  (∀ w : Word, w &&& 0xF0000000 = 0x20000000 →
    decode w = .ok (.ctrl (w.extractLsb' 14 14) (w.extractLsb' 0 14)))

/-- R124: a rising edge loads `BCNT` with the integer part of `ACTIVE`, a falling edge writes nothing;
in a state of a block in service the window it opens is active. -/
def Obligations.TrigLoadsBurstWindow : Prop :=
  (∀ s : State,
    ∃ n : BitVec 12,
      exec (.trig true) s = .next { s with bcnt := n, rsp := some ⟨0, false⟩ } ∧
      n.toNat = s.active.toNat / 16 ∧
      (RegsOk hw s.toBlock → 1 ≤ n.toNat ∧ n.toNat ≤ 4094)) ∧
  (∀ s : State, exec (.trig false) s = .next { s with rsp := some ⟨0, false⟩ }) ∧
  (∀ w : Word, w &&& 0xFFFFFFFE = 0x30000000 → decode w = .ok (.trig (w.getLsbD 0)))

/-- R151: each flag takes its value where its write enable is set and stays otherwise; a value bit whose
enable is 0 is ignored. -/
def Obligations.ModeWritesEnabledFlags : Prop :=
  (∀ (s : State) (fb dly : Option Bool),
    ∃ m : BitVec 2,
      exec (.mode fb dly) s = .next { s with mode := m, rsp := some ⟨0, false⟩ } ∧
      m.getLsbD 0 = fb.getD (s.mode.getLsbD 0) ∧ m.getLsbD 1 = dly.getD (s.mode.getLsbD 1)) ∧
  (∀ w : Word, w &&& 0xFFFFFFF0 = 0x40000000 →
    decode w = .ok (.mode (if w.getLsbD 2 then some (w.getLsbD 0) else none)
      (if w.getLsbD 3 then some (w.getLsbD 1) else none)))

/-- R152: the response is the register, zero-extended, `LASTOUT` as its pattern and `STATUS` as R29
derives it; nothing is written; register numbers 10 to 15 are illegal. -/
def Obligations.RdregAnswersRegister : Prop :=
  (∀ (s : State) (rn : BitVec 4), rn.toNat ≤ 9 →
    ∃ v : BitVec 16, exec (.rdreg rn) s = .next { s with rsp := some ⟨v, false⟩ } ∧
      v.toNat =
        if rn = 0 then s.active.toNat
        else if rn = 1 then s.target.toNat
        else if rn = 2 then s.rampinc.toNat
        else if rn = 3 then s.wcur.toNat
        else if rn = 4 then s.rdpos.toNat
        else if rn = 5 then (s.lastout.toInt % 65536).toNat
        else if rn = 6 then s.lfsr.toNat
        else if rn = 7 then s.bcnt.toNat
        else if rn = 8 then s.mode.toNat
        else (if s.bcnt ≠ 0 then 1 else 0) +
          (if (s.active.toNat : Int) = clamp s.target.toNat 16 65519 then 2 else 0)) ∧
  (∀ w : Word, w &&& 0xFFFFFFF0 = 0x50000000 → (w.extractLsb' 0 4).toNat ≤ 9 →
    decode w = .ok (.rdreg (w.extractLsb' 0 4))) ∧
  (∀ w : Word, w &&& 0xFFFFFFF0 = 0x50000000 → 10 ≤ (w.extractLsb' 0 4).toNat →
    ∃ e, decode w = .error e)

/-- R153: every register at its reset value, the buffer kept, from any state. -/
def Obligations.ResetReturnsRegisters : Prop :=
  (∀ s : State,
    ∃ t : State, exec .reset s = .next t ∧
      t.active = 32768 ∧ t.target = 0 ∧ t.rampinc = 4 ∧ t.wcur = 0 ∧ t.rdpos = 0 ∧ t.lastout = 0 ∧
      t.lfsr = 1 ∧ t.bcnt = 0 ∧ t.mode = 0 ∧ t.status = 0 ∧ t.buf = s.buf ∧
      t.rsp = some ⟨0, false⟩ ∧ t.inService = true ∧ t.inbox = s.inbox ∧
      t.abandons = s.abandons) ∧
  (∀ w : Word, decode w = .ok .reset ↔ w = 0xF0000000)

/-- R141: the whole next state of a tick, from the ramp to the output, with the interpolation and the
feedback sum as exact integers. -/
def Obligations.TickDoesTheStepsInOrder : Prop :=
  ∀ (s : State) (x : Sample),
    let active := rampStep s.active s.target s.rampinc
    let act := decide (s.bcnt ≠ 0)
    let r := if s.bcnt ≠ 0 then lfsrAdvance hw s.lfsr else s.lfsr
    let efflen := perturbLen active act (s.mode.getLsbD 1) r
    let g := perturbGain hw act r
    let li := efflen.toNat / 16
    let fr := efflen.toNat % 16
    let a := memRead s.buf (BitVec.ofInt 12 (s.wcur.toNat - li))
    let b := memRead s.buf (BitVec.ofInt 12 (s.wcur.toNat - li - 1))
    ∃ y v : Sample,
      y.toInt = a.toInt + (b.toInt - a.toInt) * fr / 16 ∧
      v.toInt = (if s.mode.getLsbD 0 then clamp (x.toInt + y.toInt * g.toNat / 65536) (-32768) 32767
        else x.toInt) ∧
      exec (.tick x) s = .next { s with
        active := active
        lfsr := r
        bcnt := if s.bcnt ≠ 0 then s.bcnt - 1 else s.bcnt
        buf := memWrite s.buf s.wcur v
        wcur := BitVec.ofInt 12 (s.wcur.toNat + 1)
        rdpos := BitVec.ofInt 16 (16 * s.wcur.toNat - efflen.toNat)
        lastout := y
        rsp := some ⟨y, false⟩ }

/-- R106: the tick stores the mixed sample in the slot at the write cursor and in no other, then
advances the cursor, from 4095 to 0. -/
def Obligations.TickWritesOneSlot : Prop :=
  ∀ (s : State) (x : Sample),
    ∃ t : State, exec (.tick x) s = .next t ∧
      memRead t.buf s.wcur = tickWritten hw x s.toBlock ∧
      (∀ j : Slot, j ≠ s.wcur → memRead t.buf j = memRead s.buf j) ∧
      t.wcur.toNat = (s.wcur.toNat + 1) % 4096

/-- What a tick leaves unchanged (43_sample_processor.md section 2). -/
def Obligations.TickFrameOnRegisters : Prop :=
  ∀ (s : State) (x : Sample),
    ∃ t : State, exec (.tick x) s = .next t ∧
      t.target = s.target ∧ t.rampinc = s.rampinc ∧ t.mode = s.mode ∧
      t.inService = s.inService ∧ t.inbox = s.inbox ∧ t.abandons = s.abandons ∧
      (s.bcnt = 0 → t.lfsr = s.lfsr ∧ t.bcnt = s.bcnt)

/-- Only `TICK` reaches the buffer (20_memory.md section 1): another command changes no slot, and what
it does depends on none. -/
def Obligations.OnlyTickReachesTheBuffer : Prop :=
  ∀ (i : Instr) (s t : State), isTick i = false → exec i s = .next t →
    (∀ j : Slot, memRead t.buf j = memRead s.buf j) ∧
    (∀ m : Memory, exec i { s with buf := m } = .next { t with buf := m })

/-- The column "written by" of the register table (10_state.md section 2): a register that a command
changes is one the table lets it write. `RAMPINC` is hardwired. -/
def Obligations.WritersOfEachRegister : Prop :=
  ∀ (i : Instr) (s t : State), exec i s = .next t → i ≠ .reset →
    (t.active ≠ s.active → isTick i = true) ∧
    (t.target ≠ s.target → ∃ cv knob, i = .ctrl cv knob) ∧
    t.rampinc = s.rampinc ∧
    (t.wcur ≠ s.wcur → isTick i = true) ∧
    (t.rdpos ≠ s.rdpos → isTick i = true) ∧
    (t.lastout ≠ s.lastout → isTick i = true) ∧
    (t.lfsr ≠ s.lfsr → isTick i = true) ∧
    (t.bcnt ≠ s.bcnt → isTick i = true ∨ i = .trig true) ∧
    (t.mode ≠ s.mode → ∃ fb dly, i = .mode fb dly)

/-! ### The mapper and the ramp -/

/-- R81. -/
def Obligations.CombineSaturatesTheSum : Prop :=
  ∀ cv knob : Control,
    ((combine cv knob).toNat : Int) = clamp (cv.toInt + knob.toInt) 0 4095 ∧
    -16384 ≤ cv.toInt + knob.toInt ∧ cv.toInt + knob.toInt ≤ 16382

/-- R82. -/
def Obligations.InvertIsExact : Prop :=
  (∀ u : BitVec 12, ((invert u).toNat : Int) = 4095 - u.toNat) ∧
  (∀ v : BitVec 12, ∃ u, invert u = v)

/-- R84: the transfer function from its three fields, with its bounds and the four values the rule
gives. -/
def Obligations.ExpoFollowsTheTable : Prop :=
  (∀ v : BitVec 12,
    let idx := v.toNat / 16 % 32
    let mant := lutAt hw idx + (lutAt hw (idx + 1) - lutAt hw idx) * (v.toNat % 16 : Nat) / 16
    expo hw v = mant / 2 ^ (8 - v.toNat / 512) ∧
    65536 ≤ mant ∧ mant < 131072 ∧
    0 < lutAt hw (idx + 1) - lutAt hw idx ∧ lutAt hw (idx + 1) - lutAt hw idx ≤ 2809 ∧
    256 ≤ expo hw v ∧ expo hw v ≤ 65448) ∧
  expo hw 0 = 256 ∧ expo hw 512 = 512 ∧ expo hw 2048 = 4096 ∧ expo hw 4095 = 65448

/-- R85: the mapper, in range whatever `TIME_SCALE` is, and inside 240 to 61357, where the clamp does not
act, with that of this hardware. -/
def Obligations.MappedTargetStaysInRange : Prop :=
  (∀ (timeScale : BitVec 16) (cv knob : Control),
    let c := { hw with timeScale := timeScale }
    let t := expo hw (invert (combine cv knob)) * timeScale.toNat / 65536
    ((mapTarget c cv knob).toNat : Int) = clamp t 16 65519 ∧ InRange (mapTarget c cv knob)) ∧
  (∀ v : BitVec 12, 240 ≤ expo hw v * 61440 / 65536 ∧ expo hw v * 61440 / 65536 ≤ 61357)

/-- The mapper (40_control_mapper_and_ramp.md section 2) gives the clamped product whatever the
parameters, and for every choice of them that 00_scope.md section 3 allows it is monotone in the
inverted input, hence falls as either control rises, which section 3 says of the default parameters
only. With a table on which `expo` is more than the 16 bits the spec calls it (entry 31 at 131072 makes
it 65536) this rests on the model's reading that `expo` is exact (log 16). -/
def Obligations.MapperIsMonotone : Prop :=
  (∀ (c : Config) (cv knob : Control),
    let t := expo c (invert (combine cv knob)) * c.timeScale.toNat / 65536
    ((mapTarget c cv knob).toNat : Int) = clamp t 16 65519 ∧ InRange (mapTarget c cv knob)) ∧
  (∀ c : Config, c.Valid →
    (∀ v v' : BitVec 12, v.toNat ≤ v'.toNat → (scaleTarget c v).toNat ≤ (scaleTarget c v').toNat) ∧
    (∀ cv knob cv' knob' : Control, cv.toInt ≤ cv'.toInt → knob.toInt ≤ knob'.toInt →
      (mapTarget c cv' knob').toNat ≤ (mapTarget c cv knob).toNat))

/-- R88: the three arms as integers, the range, and that a tick writes the result to `ACTIVE`. -/
def Obligations.RampStepFollowsTheRule : Prop :=
  (∀ active target inc : Length,
    let dest := clamp target.toNat 16 65519
    let d := dest - active.toNat
    let new : Int := (rampStep active target inc).toNat
    (d.natAbs < inc.toNat → new = dest) ∧
    (inc.toNat ≤ d.natAbs → 0 < d → new = active.toNat + inc.toNat) ∧
    (inc.toNat ≤ d.natAbs → d ≤ 0 → new = active.toNat - inc.toNat) ∧
    (d.natAbs = inc.toNat → new = dest) ∧
    (d = 0 → new = active.toNat) ∧
    (InRange active → -65503 ≤ d ∧ d ≤ 65503 ∧ InRange (rampStep active target inc))) ∧
  (∀ (s : State) (x : Sample), ∃ t : State, exec (.tick x) s = .next t ∧
    t.active = rampStep s.active s.target s.rampinc)

/-- R89 (a) to (e): no overshoot, bounded step, the exact number of ticks to converge whatever commands
that write no target come between them, the settled length after a `CTRL`, and the walk after a
reset. -/
def Obligations.RampConvergesWithoutOvershoot : Prop :=
  (∀ active target inc : Length,
    let dest := clamp target.toNat 16 65519
    let d := dest - active.toNat
    let new : Int := (rampStep active target inc).toNat
    ((active.toNat ≤ new ∧ new ≤ dest) ∨ (dest ≤ new ∧ new ≤ active.toNat)) ∧
    (new - active.toNat).natAbs ≤ inc.toNat ∧
    (1 ≤ inc.toNat → ∀ n : Nat,
      (((fun l => rampStep l target inc)^[n] active).toNat : Int) = dest ↔
        (d.natAbs + inc.toNat - 1) / inc.toNat ≤ n) ∧
    (InRange active → (d.natAbs + 4 - 1) / 4 ≤ 16376) ∧
    (InRange target → dest = target.toNat)) ∧
  (∀ (s : State) (x : Sample), ∃ t : State, exec (.tick x) s = .next t ∧
    let dest := clamp s.target.toNat 16 65519
    ((s.active.toNat ≤ (t.active.toNat : Int) ∧ t.active.toNat ≤ dest) ∨
      (dest ≤ t.active.toNat ∧ t.active.toNat ≤ s.active.toNat)) ∧
    ((t.active.toNat : Int) - s.active.toNat).natAbs ≤ s.rampinc.toNat) ∧
  (∀ (c : Config) (cmds : Nat → Instr) (st : Nat → State), Execution c cmds st →
    (∀ t, writesTarget (cmds t) = false) → 1 ≤ (st 0).rampinc.toNat →
    let dest := clamp (st 0).target.toNat 16 65519
    let inc := (st 0).rampinc.toNat
    ∀ t, ((st t).active.toNat : Int) = dest ↔
      ((dest - (st 0).active.toNat).natAbs + inc - 1) / inc ≤ ticksBefore cmds t) ∧
  (∀ (cv knob : Control) (s : State), ∃ t : State, exec (.ctrl cv knob) s = .next t ∧
    clamp t.target.toNat 16 65519 = t.target.toNat) ∧
  (∀ (b : Memory) (cmds : Nat → Instr) (st : Nat → State), st 0 = State.afterReset hw b →
    Execution hw cmds st → (∀ t, writesTarget (cmds t) = false) →
    ∀ t, (ticksBefore cmds t ≤ 8188 → (st t).active.toNat = 32768 - 4 * ticksBefore cmds t) ∧
      (8188 ≤ ticksBefore cmds t → (st t).active.toNat = 16))

/-! ### The delay line -/

/-- R101: the length a tick reads at, and its range in every state of a block in service, whatever the
parameters. -/
def Obligations.EffectiveLengthStaysInRange : Prop :=
  ∀ (c : Config) (b : Block),
    (¬(b.bcnt ≠ 0 ∧ b.mode.getLsbD 1 = true) →
      tickLen c b = rampStep b.active b.target b.rampinc) ∧
    (b.bcnt ≠ 0 → b.mode.getLsbD 1 = true →
      tickLen c b =
        perturbLen (rampStep b.active b.target b.rampinc) true true (lfsrAdvance c b.lfsr)) ∧
    (RegsOk c b →
      16 ≤ (tickLen c b).toNat ∧ (tickLen c b).toNat ≤ 65519 ∧
      1 ≤ (tickLen c b).toNat / 16 ∧ (tickLen c b).toNat / 16 ≤ 4094)

/-- R102: the two slots a tick reads, its read position, and how they agree. -/
def Obligations.ReadPositionFollowsTheRule : Prop :=
  (∀ (w : Slot) (efflen : Length),
    let li : Int := efflen.toNat / 16
    let fr := efflen.toNat % 16
    ((slotA w efflen).toNat : Int) = (w.toNat - li) % 4096 ∧
    ((slotB w efflen).toNat : Int) = (w.toNat - li - 1) % 4096 ∧
    ((readPos w efflen).toNat : Int) = (16 * w.toNat - efflen.toNat) % 65536 ∧
    (fr = 0 → (readPos w efflen).toNat / 16 = (slotA w efflen).toNat) ∧
    (fr ≠ 0 → (readPos w efflen).toNat / 16 = (slotB w efflen).toNat ∧
      (readPos w efflen).toNat % 16 = 16 - fr)) ∧
  (∀ (s : State) (x : Sample), ∃ t : State, exec (.tick x) s = .next t ∧
    t.rdpos = readPos s.wcur (tickLen hw s.toBlock) ∧
    t.lastout = interp (memRead s.buf (slotA s.wcur (tickLen hw s.toBlock)))
      (memRead s.buf (slotB s.wcur (tickLen hw s.toBlock))) ((tickLen hw s.toBlock).toNat % 16))

/-- R103: no length in range reads the slot at the write cursor, and a tick of a block in service reads
at a length in range; the shortest length reads the slot just written, the longest reads up to the
oldest slot but one. -/
def Obligations.ReadNeverTouchesCursorSlot : Prop :=
  (∀ (w : Slot) (efflen : Length), InRange efflen → slotA w efflen ≠ w ∧ slotB w efflen ≠ w) ∧
  (∀ w : Slot, slotA w 16 = w - 1 ∧ slotB w 65519 = w + 1) ∧
  (∀ (c : Config) (b : Block), RegsOk c b →
    slotA b.wcur (tickLen c b) ≠ b.wcur ∧ slotB b.wcur (tickLen c b) ≠ b.wcur)

/-- R104: the interpolated sample is exact and lies between its neighbours; at a whole length it is the
stored sample. -/
def Obligations.InterpolationLiesBetween : Prop :=
  (∀ (a b : Sample) (fr : Nat), fr < 16 →
    let y := interp a b fr
    y.toInt = a.toInt + (b.toInt - a.toInt) * fr / 16 ∧
    ((a.toInt ≤ y.toInt ∧ y.toInt ≤ b.toInt) ∨ (b.toInt ≤ y.toInt ∧ y.toInt ≤ a.toInt))) ∧
  (∀ a b : Sample, interp a b 0 = a) ∧
  interp 1000 2000 8 = 1500 ∧ interp 2000 1000 1 = 1937 ∧ interp 0 (-1) 15 = -1

/-- R105: the mixed sample, saturated to 16 bits; the fed-back part is no larger than the sample it
comes from; without `FBMOD` the input is written. -/
def Obligations.FeedbackMixSaturates : Prop :=
  (∀ (x y : Sample) (g : BitVec 16),
    (fbMix true x y g).toInt = clamp (x.toInt + y.toInt * g.toNat / 65536) (-32768) 32767 ∧
    (y.toInt * g.toNat / 65536).natAbs ≤ y.toInt.natAbs ∧
    fbMix false x y g = x) ∧
  (∀ g : BitVec 16, g ≠ 0 → fbMix true 0 (-1) g = -1) ∧
  fbMix true 32767 32767 32768 = 32767 ∧ fbMix true (-32768) (-32768) 65535 = -32768 ∧
  fbMix true 0 16384 32768 = 8192 ∧
  (∀ (s : State) (x : Sample), ∃ t : State, exec (.tick x) s = .next t ∧
    memRead t.buf s.wcur = fbMix (s.mode.getLsbD 0) x t.lastout (tickGain hw s.toBlock))

/-- R107: at a whole length the output of tick `t` is the input of tick `t - N`; at another length it is
the interpolation of two inputs; before that it is what the buffer held; and when the length is
fixed. -/
def Obligations.ExactDelayIdentity : Prop :=
  ∀ (c : Config) (x : Nat → Sample) (st : Nat → State), TickRun c x st →
    (∀ N : Nat, 1 ≤ N → N ≤ 4094 →
      (st 0).fbmod = false → (∀ t, (tickLen c (st t).toBlock).toNat = 16 * N) →
      ∀ t, (st (t + 1)).lastout =
        if N ≤ t then x (t - N)
        else memRead (st 0).buf (BitVec.ofInt 12 ((st 0).wcur.toNat + t - N))) ∧
    (∀ N fr : Nat, 1 ≤ N → N ≤ 4094 → fr < 16 →
      (st 0).fbmod = false → (∀ t, (tickLen c (st t).toBlock).toNat = 16 * N + fr) →
      ∀ t, N + 1 ≤ t → (st (t + 1)).lastout.toInt =
        (x (t - N)).toInt + ((x (t - N - 1)).toInt - (x (t - N)).toInt) * fr / 16) ∧
    (∀ L : Nat, 16 ≤ L → L ≤ 65519 →
      (st 0).active.toNat = L → (st 0).target.toNat = L →
      ((st 0).dlymod = false ∨ (st 0).bcnt = 0) → ∀ t, (tickLen c (st t).toBlock).toNat = L)

/-- R108: an impulse through the feedback loop comes out as a train of echoes `N` ticks apart, each the
floor of the one before it times the gain, whatever the gain. -/
def Obligations.ImpulseGivesEchoTrain : Prop :=
  ∀ (c : Config) (N P : Nat) (x : Nat → Sample) (st : Nat → State), 1 ≤ N → N ≤ 4094 → P ≤ 32767 →
    TickRun c x st → (st 0).fbmod = true → (∀ t, (st t).bcnt = 0) →
    (∀ t, (tickLen c (st t).toBlock).toNat = 16 * N) →
    (∀ j, j < N → memRead (st 0).buf (BitVec.ofInt 12 ((st 0).wcur.toNat + j - N)) = 0) →
    (x 0).toInt = P → (∀ t, 1 ≤ t → x t = 0) →
    (∀ k, 1 ≤ k → (st (k * N + 1)).lastout.toInt =
      ((fun p => p * c.fbGain.toNat / 65536)^[k - 1] P : Nat)) ∧
    (∀ t, ¬(N ≤ t ∧ N ∣ t) → (st (t + 1)).lastout = 0)

/-! ### The burst generator -/

/-- R121: three shift-and-xor steps and the mask, with the rule's two worked values. -/
def Obligations.LfsrAdvanceFollowsTheRule : Prop :=
  (∀ r : BitVec 12,
    let t1 := r.toNat ^^^ (r.toNat * 2 ^ 7)
    let t2 := t1 ^^^ (t1 / 2 ^ 6)
    let t3 := t2 ^^^ (t2 * 2 ^ 9)
    (lfsrAdvance hw r).toNat = t3 % 4096 ∧ t1 < 2 ^ 19 ∧ t3 < 2 ^ 28) ∧
  lfsrAdvance hw 1 = 1667 ∧ lfsrAdvance hw 1667 = 1055

/-- R122 (a) to (e). -/
def Obligations.LfsrRunsThroughEveryNonzeroValue : Prop :=
  Function.Bijective (lfsrAdvance hw) ∧
  (∀ r, lfsrAdvance hw r = 0 ↔ r = 0) ∧
  ((lfsrAdvance hw)^[4095] 1 = 1 ∧ ∀ k, 0 < k → k < 4095 → (lfsrAdvance hw)^[k] 1 ≠ 1) ∧
  (List.range 20).map (fun k => ((lfsrAdvance hw)^[k + 1] 1).toNat) =
    [1667, 1055, 433, 85, 1662, 923, 3875, 729, 3040, 527, 921, 549, 2791, 2178, 164, 4078, 3341,
      1955, 3963, 3120] ∧
  (∀ p q, lfsrAdvance hw (p ^^^ q) = lfsrAdvance hw p ^^^ lfsrAdvance hw q)

/-- R125: a tick advances the register and takes one off the count while the window is open, the tick
that closes it included, and touches neither while it is closed. -/
def Obligations.TickCountsTheWindowDown : Prop :=
  ∀ (s : State) (x : Sample), ∃ t : State, exec (.tick x) s = .next t ∧
    (s.bcnt ≠ 0 → t.lfsr = lfsrAdvance hw s.lfsr ∧ t.bcnt.toNat = s.bcnt.toNat - 1 ∧
      tickAct s.toBlock = true ∧ tickReg hw s.toBlock = lfsrAdvance hw s.lfsr) ∧
    (s.bcnt = 0 → t.lfsr = s.lfsr ∧ t.bcnt = s.bcnt ∧ tickAct s.toBlock = false)

/-- R126: the perturbed length, clamped, at most 128 sixteenths from the length it perturbs, which
itself stays. -/
def Obligations.PerturbedLengthIsBounded : Prop :=
  (∀ (active : Length) (r : BitVec 12),
    ((perturbLen active true true r).toNat : Int) =
      clamp (active.toNat + (r.toNat % 256 : Nat) - 128) 16 65519 ∧
    (InRange active →
      ((perturbLen active true true r).toNat - active.toNat : Int).natAbs ≤ 128)) ∧
  (∀ (active : Length) (act dlymod : Bool) (r : BitVec 12), (act && dlymod) = false →
    perturbLen active act dlymod r = active) ∧
  (∀ (s : State) (x : Sample), ∃ t : State, exec (.tick x) s = .next t ∧
    t.active = rampStep s.active s.target s.rampinc)

/-- R127: the perturbed gain never exceeds the configured one, whatever the parameters. -/
def Obligations.PerturbedGainIsBounded : Prop :=
  (∀ (c : Config) (r : BitVec 12),
    ((perturbGain c true r).toNat : Int) = max 0 ((c.fbGain.toNat : Int) - 4 * r.toNat) ∧
    perturbGain c false r = c.fbGain ∧
    (∀ act, (perturbGain c act r).toNat ≤ c.fbGain.toNat)) ∧
  (∀ r : BitVec 12, r ≠ 0 →
    16388 ≤ (perturbGain hw true r).toNat ∧ (perturbGain hw true r).toNat ≤ 32764)

/-- R129: after a rising trigger exactly the next `K` ticks are burst-active and the register advances
exactly `K` times, whatever other commands come between; over a run with no reset the register is
the seed advanced once per burst-active tick. -/
def Obligations.BurstWindowLastsItsLength : Prop :=
  ∀ (c : Config) (cmds : Nat → Instr) (st : Nat → State), Execution c cmds st →
    (∀ s : State, execWith c (.trig true) s = .next (st 0) →
      (∀ t, cmds t ≠ .trig true ∧ cmds t ≠ .reset) →
      (st 0).bcnt.toNat = s.active.toNat / 16 ∧
      (RegsOk c s.toBlock → 1 ≤ s.active.toNat / 16 ∧ s.active.toNat / 16 ≤ 4094) ∧
      ∀ t, ((st t).bcnt ≠ 0 ↔ ticksBefore cmds t < s.active.toNat / 16) ∧
        (st t).lfsr = (lfsrAdvance c)^[min (ticksBefore cmds t) (s.active.toNat / 16)] s.lfsr) ∧
    ((st 0).lfsr = 1 → (∀ t, cmds t ≠ .reset) →
      ∀ t, (st t).lfsr = (lfsrAdvance c)^[burstTicksBefore cmds st t] 1)

/-! ### The buffer -/

/-- R46: at power-on a slot holds `BUF_INIT`, whatever it is; a reset changes no slot; after a reset, and
after any other state, the slot `k` behind the cursor holds what the `k`-th most recent tick wrote, for
`k` up to 4096 and whatever commands came between, and the others hold what they held then. -/
def Obligations.SlotHoldsTheTickThatWroteIt : Prop :=
  (∀ (init : Slot → Sample) (j : Slot), memRead (State.powerOn (bufOf init)).buf j = init j) ∧
  (∀ s : State, ∃ t : State, exec .reset s = .next t ∧ t.buf = s.buf ∧
    ∀ rest, s.inbox = .rst :: rest → ∃ u : State, step s = .next u ∧ u.buf = s.buf) ∧
  (∀ (i : Instr) (s t : State), exec i s = .next t → t.buf ≠ s.buf → isTick i = true) ∧
  (∀ (c : Config) (cmds : Nat → Instr) (st : Nat → State), Execution c cmds st →
    (∀ t, cmds t ≠ .reset) →
    ∀ n k : Nat, 1 ≤ k → k ≤ 4096 →
      let slot : Slot := BitVec.ofInt 12 ((st n).wcur.toNat - k)
      (k ≤ ticksBefore cmds n → ∃ m x, m < n ∧ cmds m = .tick x ∧
        ticksBefore cmds m + k = ticksBefore cmds n ∧
        memRead (st n).buf slot = tickWritten c x (st m).toBlock) ∧
      (ticksBefore cmds n < k → memRead (st n).buf slot = memRead (st 0).buf slot))

/-- 4096 ticks of silence without feedback clear the buffer (70_reset_and_hazards.md section 2). -/
def Obligations.SilenceFlushesTheBuffer : Prop :=
  ∀ (c : Config) (x : Nat → Sample) (st : Nat → State), TickRun c x st → (st 0).fbmod = false →
    (∀ t, t < 4096 → x t = 0) → ∀ j : Slot, memRead (st 4096).buf j = 0

/-- The model's canonical form (log 2): two buffers that hold the same samples are the same data. -/
def Obligations.CanonicalBuffersAreEqual : Prop :=
  ∀ m m' : Memory, Memory.wf m = true → Memory.wf m' = true →
    (∀ j : Slot, memRead m j = memRead m' j) → m = m'

/-! ### The whole machine -/

/-- R31: the state after a reset, for every contents of the buffer and any parameters, and with those of
this hardware; both ways to reset give it; the buffer at power-on is `BUF_INIT`. -/
def Obligations.ResetStateHoldsTheTable : Prop :=
  (∀ (c : Config) (b : Memory),
    let s := State.afterReset c b
    s.active = c.lenInit ∧ s.target = 0 ∧ s.rampinc = c.rampInc ∧ s.wcur = 0 ∧ s.rdpos = 0 ∧
    s.lastout = 0 ∧ s.lfsr = 1 ∧ s.bcnt = 0 ∧ s.mode = 0 ∧ s.buf = b) ∧
  (∀ b : Memory,
    let s := State.afterReset hw b
    s.active = 32768 ∧ s.rampinc = 4 ∧ s.status = 0) ∧
  (∀ (c : Config) (s : State),
    (∃ t : State, execWith c .reset s = .next t ∧ t.toBlock = (State.afterReset c s.buf).toBlock) ∧
    (∀ rest, s.inbox = .rst :: rest →
      ∃ t : State, stepWith c s = .next t ∧ t.toBlock = (State.afterReset c s.buf).toBlock)) ∧
  (∀ (init : Slot → Sample) (j : Slot), memRead (State.powerOn (bufOf init)).buf j = init j)

/-- The invariant holds at reset and at power-on, whatever the buffer holds. `State.reset` is the state
after a reset with a buffer of zeros, which is the model's choice (log 2). -/
def Obligations.InvariantHoldsAtReset : Prop :=
  (∀ b : Memory, Memory.wf b = true → Inv hw (State.afterReset hw b) ∧ Inv hw (State.powerOn b)) ∧
  (∀ init : Slot → Sample, Memory.wf (bufOf init) = true) ∧
  State.reset = State.afterReset hw [] ∧ Inv hw State.reset

/-- Every step, of a command, of an illegal word or of the reset pin, keeps the invariant of 10_state.md
section 5 and the canonical form of the buffer. -/
def Obligations.EveryStepKeepsTheInvariant : Prop :=
  ∀ s t : State, Inv hw s → step s = .next t → Inv hw t

/-- R30 (a) to (f), in every state that legal commands reach from a reset, whatever the buffer held and
with any parameters 00_scope.md section 3 allows. -/
def Obligations.ReachableStatesKeepTheInvariants : Prop :=
  ∀ (c : Config) (b : Memory) (cmds : Nat → Instr) (st : Nat → State), c.Valid →
    st 0 = State.afterReset c b → Execution c cmds st →
    ∀ t,
      (16 ≤ (st t).active.toNat ∧ (st t).active.toNat ≤ 65519) ∧
      (st t).lfsr ≠ 0 ∧
      (st t).bcnt.toNat ≤ 4094 ∧
      ((st t).target = 0 ∨ (16 ≤ (st t).target.toNat ∧ (st t).target.toNat ≤ 65519)) ∧
      ((st t).target = 0 → ∀ k cv knob, k < t → cmds k = .ctrl cv knob →
        ∃ j, k < j ∧ j < t ∧ cmds j = .reset) ∧
      (st t).wcur.toNat ≤ 4095 ∧
      (slotA (st t).wcur (tickLen c (st t).toBlock) ≠ (st t).wcur ∧
        slotB (st t).wcur (tickLen c (st t).toBlock) ≠ (st t).wcur)

/-- The parameters this hardware takes meet the constraints of 00_scope.md section 3. -/
def Obligations.HardwareParametersAreValid : Prop := hw.Valid

/-- With any parameters 00_scope.md section 3 allows, a reset establishes the invariant, every step keeps
it, and every command keeps the registers in their ranges. -/
def Obligations.EveryConfigKeepsTheRanges : Prop :=
  ∀ c : Config, c.Valid →
    (∀ b : Memory, Memory.wf b = true → Inv c (State.afterReset c b)) ∧
    (∀ s t : State, Inv c s → stepWith c s = .next t → Inv c t) ∧
    (∀ (i : Instr) (s t : State), RegsOk c s.toBlock → execWith c i s = .next t → RegsOk c t.toBlock)

/-- The input of a tick never reaches that tick's output, and a tick reads neither `LASTOUT` nor `RDPOS`
(43_sample_processor.md section 2, corner cases). -/
def Obligations.TickOutputIgnoresItsInput : Prop :=
  (∀ (s : State) (x x' : Sample), ∃ t t' : State,
    exec (.tick x) s = .next t ∧ exec (.tick x') s = .next t' ∧
    t.lastout = t'.lastout ∧ t.rsp = t'.rsp ∧ t.rdpos = t'.rdpos ∧ t.active = t'.active) ∧
  (∀ (s : State) (x y : Sample) (p : Length),
    exec (.tick x) { s with lastout := y, rdpos := p } = exec (.tick x) s)

/-- `CTRL`, `TRIG` and `MODE` commute with each other, and `NOP` and `RDREG` with everything, as far as
the state goes (60_exceptions.md section 2). -/
def Obligations.ControlCommandsCommute : Prop :=
  ∀ (i j : Instr) (s : State),
    ((∃ cv knob e, i = .ctrl cv knob ∧ j = .trig e) ∨
      (∃ cv knob fb dly, i = .ctrl cv knob ∧ j = .mode fb dly) ∨
      (∃ e fb dly, i = .trig e ∧ j = .mode fb dly) ∨
      i = .nop ∨ (∃ rn, i = .rdreg rn)) →
    ∃ si sj sij sji : State, exec i s = .next si ∧ exec j s = .next sj ∧
      exec j si = .next sij ∧ exec i sj = .next sji ∧ SameState sij sji

/-- R29: the derived status bits and the pins that show them and `LASTOUT`, and their values after a
reset. -/
def Obligations.StatusBitsAreDerived : Prop :=
  (∀ s : State,
    (s.status.getLsbD 0 = true ↔ s.bcnt ≠ 0) ∧
    (s.status.getLsbD 1 = true ↔ (s.active.toNat : Int) = clamp s.target.toNat 16 65519) ∧
    s.burstActive = s.status.getLsbD 0 ∧ s.settled = s.status.getLsbD 1 ∧ s.audioOut = s.lastout) ∧
  (∀ b : Memory, (State.afterReset hw b).status = 0)

/-! ### The parameters -/

/-- The machine of this hardware is the machine with parameters (00_scope.md section 3) at `hw`, and a
step with any parameters runs the decoded command with them. -/
def Obligations.HardwareIsTheMachineAtItsParameters : Prop :=
  (∀ (i : Instr) (s : State), exec i s = execWith hw i s) ∧
  (∀ s : State, step s = stepWith hw s) ∧
  (∀ (c : Config) (s : State) (w : Word) (rest : List PortEvent) (i : Instr),
    s.inbox = .cmd w :: rest → decode w = .ok i → (s.inService = true ∨ i = .reset) →
    stepWith c s = execWith c i { s with inbox := rest })

/-- What a command does to the block and what it answers is a function of the parameters, the command and
the block, and of nothing else the model's state holds (10_state.md section 7). -/
def Obligations.CommandsActOnTheBlockAlone : Prop :=
  ∀ (c : Config) (i : Instr) (s s' : State), s.toBlock = s'.toBlock →
    ∃ t t' : State, execWith c i s = .next t ∧ execWith c i s' = .next t' ∧
      t.toBlock = t'.toBlock ∧ t.rsp = t'.rsp ∧
      (t.toBlock, t.rsp) = ((runCommand c i s.toBlock).1, some (runCommand c i s.toBlock).2) ∧
      t.inbox = s.inbox ∧ t.abandons = s.abandons

/-- R83: the 33 entries of the table, each the integer nearest to `65536 * 2^(i/32)`, strictly
rising. -/
def Obligations.ExpoTableHoldsItsEntries : Prop :=
  hw.expoLut =
    [65536, 66971, 68438, 69936, 71468, 73032, 74632, 76266, 77936, 79642, 81386] ++
    [83169, 84990, 86851, 88752, 90696, 92682, 94711, 96785, 98905, 101070, 103283] ++
    [105545, 107856, 110218, 112631, 115098, 117618, 120194, 122825, 125515, 128263, 131072] ∧
  (∀ i : Nat, i ≤ 32 →
    (2 * lutAt hw i - 1) ^ 32 < 2 ^ (544 + i) ∧ (2 ^ (544 + i) : Int) < (2 * lutAt hw i + 1) ^ 32) ∧
  (∀ i : Nat, i < 32 → lutAt hw i < lutAt hw (i + 1) ∧ lutAt hw (i + 1) < 2 ^ 18)
end

