-- ==== Sys2Proof/Laws/Arith.lean ====
section
/-! SUPPORT. The arithmetic of 00_scope.md R8: what `clamp`, `asr`, `sat16` and the narrowings say. -/

namespace Sys2Proof.Machine

theorem clamp_lower {v lo hi : Int} (h : lo ≤ hi) : lo ≤ clamp v lo hi := by
  unfold clamp; split <;> (try split) <;> omega

theorem clamp_upper {v lo hi : Int} (h : lo ≤ hi) : clamp v lo hi ≤ hi := by
  unfold clamp; split <;> (try split) <;> omega

theorem clamp_eq_self {v lo hi : Int} (h₁ : lo ≤ v) (h₂ : v ≤ hi) : clamp v lo hi = v := by
  unfold clamp; split <;> (try split) <;> omega

theorem clamp_mono {v v' lo hi : Int} (h : lo ≤ hi) (hv : v ≤ v') :
    clamp v lo hi ≤ clamp v' lo hi := by
  unfold clamp; repeat' split
  all_goals omega

theorem asr_four (v : Int) : asr v 4 = v / 16 := rfl

theorem asr_sixteen (v : Int) : asr v 16 = v / 65536 := rfl

theorem sat16_range (v : Int) : -32768 ≤ sat16 v ∧ sat16 v ≤ 32767 :=
  ⟨clamp_lower (by decide), clamp_upper (by decide)⟩

/-- Narrowing an unsigned value that fits. -/
theorem toNat_ofInt_of_fits {w : Nat} {v : Int} (h₁ : 0 ≤ v) (h₂ : v < 2 ^ w) :
    ((BitVec.ofInt w v).toNat : Int) = v := by
  rw [BitVec.toNat_ofInt]
  have : v % ((2 ^ w : Nat) : Int) = v := Int.emod_eq_of_lt h₁ (by exact_mod_cast h₂)
  rw [this]; exact Int.toNat_of_nonneg h₁

/-- Narrowing a sample that fits. -/
theorem toInt_ofInt_of_fits {v : Int} (h₁ : -32768 ≤ v) (h₂ : v ≤ 32767) :
    (BitVec.ofInt 16 v).toInt = v := by
  rw [BitVec.toInt_ofInt]; exact Int.bmod_eq_of_le (by omega) (by omega)

/-- A sample's value. -/
theorem sample_range (x : Sample) : -32768 ≤ x.toInt ∧ x.toInt ≤ 32767 := by
  have h₁ := BitVec.le_toInt x
  have h₂ := BitVec.toInt_lt (x := x)
  omega

/-- A control input's value (30_encoding.md R64). -/
theorem control_range (x : Control) : -8192 ≤ x.toInt ∧ x.toInt ≤ 8191 := by
  have h₁ := BitVec.le_toInt x
  have h₂ := BitVec.toInt_lt (x := x)
  omega

end Sys2Proof.Machine
end

