-- ==== Sys2Proof/Laws/Decode.lean ====
section
/-! SUPPORT. What the decoder can answer: one equation per opcode, so that no proof unfolds its match. -/

namespace Sys2Proof

theorem ifZero_ok {c : Bool} {i j : Instr} (h : ifZero c i = .ok j) : c = true ∧ j = i := by
  unfold ifZero at h; split at h
  · exact ⟨‹_›, by simpa using h.symm⟩
  · cases h

theorem decodeRdreg_ok {rn : BitVec 4} {i : Instr} (h : decodeRdreg rn = .ok i) :
    rn.toNat ≤ 9 ∧ i = .rdreg rn := by
  unfold decodeRdreg at h; split at h
  · exact ⟨‹_›, by simpa using h.symm⟩
  · cases h

/-- Everything the decoder accepts, with what the word's other bits then are. -/
theorem decode_cases {w : Word} {i : Instr} (h : decode w = .ok i) :
    (field 28 4 w = 0 ∧ field 0 28 w = 0 ∧ i = .nop) ∨
    (field 28 4 w = 1 ∧ field 16 12 w = 0 ∧ i = .tick (field 0 16 w)) ∨
    (field 28 4 w = 2 ∧ i = .ctrl (field 14 14 w) (field 0 14 w)) ∨
    (field 28 4 w = 3 ∧ field 1 27 w = 0 ∧ i = .trig (w.getLsbD 0)) ∨
    (field 28 4 w = 4 ∧ field 4 24 w = 0 ∧
      i = .mode (modeOperand (w.getLsbD 0) (w.getLsbD 2))
        (modeOperand (w.getLsbD 1) (w.getLsbD 3))) ∨
    (field 28 4 w = 5 ∧ field 4 24 w = 0 ∧ (field 0 4 w).toNat ≤ 9 ∧ i = .rdreg (field 0 4 w)) ∨
    (field 28 4 w = 15 ∧ field 0 28 w = 0 ∧ i = .reset) := by
  have op {n : Nat} (hn : (field 28 4 w).toNat = n) : field 28 4 w = BitVec.ofNat 4 n :=
    BitVec.eq_of_toNat_eq (by rw [hn, BitVec.toNat_ofNat]; have := (field 28 4 w).isLt; omega)
  unfold decode at h
  split at h
  · rename_i hn; have := ifZero_ok h; exact .inl ⟨op hn, by simpa using this.1, this.2⟩
  · rename_i hn; have := ifZero_ok h; exact .inr (.inl ⟨op hn, by simpa using this.1, this.2⟩)
  · rename_i hn; exact .inr (.inr (.inl ⟨op hn, by simpa using h.symm⟩))
  · rename_i hn; have := ifZero_ok h
    exact .inr (.inr (.inr (.inl ⟨op hn, by simpa using this.1, this.2⟩)))
  · rename_i hn; have := ifZero_ok h
    exact .inr (.inr (.inr (.inr (.inl ⟨op hn, by simpa using this.1, this.2⟩))))
  · rename_i hn
    split at h
    · rename_i hz
      have := decodeRdreg_ok h
      exact .inr (.inr (.inr (.inr (.inr (.inl ⟨op hn, by simpa using hz, this⟩)))))
    · cases h
  · rename_i hn; have := ifZero_ok h
    exact .inr (.inr (.inr (.inr (.inr (.inr ⟨op hn, by simpa using this.1, this.2⟩)))))
  · cases h

/-- The decoder answers well-formed commands only. -/
theorem decode_wellFormed {w : Word} {i : Instr} (h : decode w = .ok i) : i.WellFormed = true := by
  obtain ⟨-, -, rfl⟩ | ⟨-, -, rfl⟩ | ⟨-, rfl⟩ | ⟨-, -, rfl⟩ | ⟨-, -, rfl⟩ | ⟨-, -, h9, rfl⟩ |
    ⟨-, -, rfl⟩ := decode_cases h
  case inr.inr.inr.inr.inr.inl => simpa [Instr.WellFormed] using h9
  all_goals rfl

end Sys2Proof
end

