-- ==== Sys2Proof/Laws/State.lean ====
section
/-! SUPPORT. One lemma per field per update of the state, each true by `rfl`, so that no later proof
unfolds a record update. A machine's register is its block's: `s.active` is `s.toBlock.active`, so an
update that writes the block has one lemma for the ten. -/

namespace Sys2Proof.Machine

/-! ### `State.commit` -/

@[simp] theorem commit_toBlock (s : State) (r : Block × Response) :
    (s.commit r).toBlock = r.1 := rfl

@[simp] theorem commit_inService (s : State) (r : Block × Response) :
    (s.commit r).inService = s.inService := rfl

@[simp] theorem commit_inbox (s : State) (r : Block × Response) :
    (s.commit r).inbox = s.inbox := rfl

@[simp] theorem commit_rsp (s : State) (r : Block × Response) : (s.commit r).rsp = some r.2 := rfl

@[simp] theorem commit_abandons (s : State) (r : Block × Response) :
    (s.commit r).abandons = s.abandons := rfl

/-! ### `State.reject` -/

@[simp] theorem reject_toBlock (s : State) : (s.reject).toBlock = s.toBlock := rfl

@[simp] theorem reject_inService (s : State) : (s.reject).inService = s.inService := rfl

@[simp] theorem reject_inbox (s : State) : (s.reject).inbox = s.inbox := rfl

@[simp] theorem reject_rsp (s : State) : (s.reject).rsp = some illegal := rfl

@[simp] theorem reject_abandons (s : State) : (s.reject).abandons = s.abandons := rfl

/-! ### `Block.resetRegs` -/

@[simp] theorem resetRegs_active (c : Config) (b : Block) :
    (b.resetRegs c).active = c.lenInit := rfl

@[simp] theorem resetRegs_target (c : Config) (b : Block) : (b.resetRegs c).target = 0 := rfl

@[simp] theorem resetRegs_rampinc (c : Config) (b : Block) :
    (b.resetRegs c).rampinc = c.rampInc := rfl

@[simp] theorem resetRegs_wcur (c : Config) (b : Block) : (b.resetRegs c).wcur = 0 := rfl

@[simp] theorem resetRegs_rdpos (c : Config) (b : Block) : (b.resetRegs c).rdpos = 0 := rfl

@[simp] theorem resetRegs_lastout (c : Config) (b : Block) : (b.resetRegs c).lastout = 0 := rfl

@[simp] theorem resetRegs_lfsr (c : Config) (b : Block) : (b.resetRegs c).lfsr = lfsrSeed := rfl

@[simp] theorem resetRegs_bcnt (c : Config) (b : Block) : (b.resetRegs c).bcnt = 0 := rfl

@[simp] theorem resetRegs_mode (c : Config) (b : Block) : (b.resetRegs c).mode = 0 := rfl

@[simp] theorem resetRegs_buf (c : Config) (b : Block) : (b.resetRegs c).buf = b.buf := rfl

/-! ### `Block.afterReset` -/

@[simp] theorem blockAfterReset_active (c : Config) (m : Memory) :
    (Block.afterReset c m).active = c.lenInit := rfl

@[simp] theorem blockAfterReset_target (c : Config) (m : Memory) :
    (Block.afterReset c m).target = 0 := rfl

@[simp] theorem blockAfterReset_rampinc (c : Config) (m : Memory) :
    (Block.afterReset c m).rampinc = c.rampInc := rfl

@[simp] theorem blockAfterReset_wcur (c : Config) (m : Memory) :
    (Block.afterReset c m).wcur = 0 := rfl

@[simp] theorem blockAfterReset_rdpos (c : Config) (m : Memory) :
    (Block.afterReset c m).rdpos = 0 := rfl

@[simp] theorem blockAfterReset_lastout (c : Config) (m : Memory) :
    (Block.afterReset c m).lastout = 0 := rfl

@[simp] theorem blockAfterReset_lfsr (c : Config) (m : Memory) :
    (Block.afterReset c m).lfsr = lfsrSeed := rfl

@[simp] theorem blockAfterReset_bcnt (c : Config) (m : Memory) :
    (Block.afterReset c m).bcnt = 0 := rfl

@[simp] theorem blockAfterReset_mode (c : Config) (m : Memory) :
    (Block.afterReset c m).mode = 0 := rfl

@[simp] theorem blockAfterReset_buf (c : Config) (m : Memory) :
    (Block.afterReset c m).buf = m := rfl

/-! ### `State.afterReset` -/

@[simp] theorem afterReset_toBlock (c : Config) (m : Memory) :
    (State.afterReset c m).toBlock = Block.afterReset c m := rfl

@[simp] theorem afterReset_inService (c : Config) (m : Memory) :
    (State.afterReset c m).inService = true := rfl

@[simp] theorem afterReset_inbox (c : Config) (m : Memory) :
    (State.afterReset c m).inbox = [] := rfl

@[simp] theorem afterReset_rsp (c : Config) (m : Memory) : (State.afterReset c m).rsp = none := rfl

@[simp] theorem afterReset_abandons (c : Config) (m : Memory) :
    (State.afterReset c m).abandons = 0 := rfl

/-! ### `State.powerOn` -/

@[simp] theorem powerOn_buf (m : Memory) : (State.powerOn m).buf = m := rfl

@[simp] theorem powerOn_inService (m : Memory) : (State.powerOn m).inService = false := rfl

@[simp] theorem powerOn_inbox (m : Memory) : (State.powerOn m).inbox = [] := rfl

@[simp] theorem powerOn_rsp (m : Memory) : (State.powerOn m).rsp = none := rfl

@[simp] theorem powerOn_abandons (m : Memory) : (State.powerOn m).abandons = 0 := rfl

/-! ### `idle` -/

@[simp] theorem idle_toBlock (s : State) : (idle s).toBlock = s.toBlock := rfl

@[simp] theorem idle_inService (s : State) : (idle s).inService = s.inService := rfl

@[simp] theorem idle_inbox (s : State) : (idle s).inbox = s.inbox := rfl

@[simp] theorem idle_rsp (s : State) : (idle s).rsp = none := rfl

@[simp] theorem idle_abandons (s : State) : (idle s).abandons = s.abandons := rfl

/-! ### `resetPin` -/

@[simp] theorem resetPin_toBlock (c : Config) (s : State) :
    (resetPin c s).toBlock = s.toBlock.resetRegs c := rfl

@[simp] theorem resetPin_inService (c : Config) (s : State) : (resetPin c s).inService = true := rfl

@[simp] theorem resetPin_inbox (c : Config) (s : State) : (resetPin c s).inbox = s.inbox := rfl

@[simp] theorem resetPin_rsp (c : Config) (s : State) : (resetPin c s).rsp = none := rfl

@[simp] theorem resetPin_abandons (c : Config) (s : State) :
    (resetPin c s).abandons = s.abandons := rfl

/-! ### `abandon` -/

@[simp] theorem abandon_toBlock (c : Config) (ex : Executor) (w : Word) (s : State) :
    (abandon c ex w s).toBlock = Block.afterReset c
      (if Config.abandonedWrite s.abandons then bufAfter ex w s else s.buf) := rfl

@[simp] theorem abandon_inService (c : Config) (ex : Executor) (w : Word) (s : State) :
    (abandon c ex w s).inService = true := rfl

@[simp] theorem abandon_inbox (c : Config) (ex : Executor) (w : Word) (s : State) :
    (abandon c ex w s).inbox = s.inbox := rfl

@[simp] theorem abandon_rsp (c : Config) (ex : Executor) (w : Word) (s : State) :
    (abandon c ex w s).rsp = none := rfl

@[simp] theorem abandon_abandons (c : Config) (ex : Executor) (w : Word) (s : State) :
    (abandon c ex w s).abandons = s.abandons + 1 := rfl

/-! ### `putWord` -/

@[simp] theorem putWord_toBlock (s : State) (w : Word) : (putWord s w).toBlock = s.toBlock := rfl

@[simp] theorem putWord_inService (s : State) (w : Word) : (putWord s w).inService = true := rfl

@[simp] theorem putWord_inbox (s : State) (w : Word) :
    (putWord s w).inbox = .cmd w :: s.inbox := rfl

@[simp] theorem putWord_rsp (s : State) (w : Word) : (putWord s w).rsp = s.rsp := rfl

@[simp] theorem putWord_abandons (s : State) (w : Word) : (putWord s w).abandons = s.abandons := rfl

/-! ### `runCtrl` -/

@[simp] theorem runCtrl_active (c : Config) (cv knob : Control) (b : Block) :
    (runCtrl c cv knob b).1.active = b.active := rfl

@[simp] theorem runCtrl_target (c : Config) (cv knob : Control) (b : Block) :
    (runCtrl c cv knob b).1.target = mapTarget c cv knob := rfl

@[simp] theorem runCtrl_rampinc (c : Config) (cv knob : Control) (b : Block) :
    (runCtrl c cv knob b).1.rampinc = b.rampinc := rfl

@[simp] theorem runCtrl_wcur (c : Config) (cv knob : Control) (b : Block) :
    (runCtrl c cv knob b).1.wcur = b.wcur := rfl

@[simp] theorem runCtrl_rdpos (c : Config) (cv knob : Control) (b : Block) :
    (runCtrl c cv knob b).1.rdpos = b.rdpos := rfl

@[simp] theorem runCtrl_lastout (c : Config) (cv knob : Control) (b : Block) :
    (runCtrl c cv knob b).1.lastout = b.lastout := rfl

@[simp] theorem runCtrl_lfsr (c : Config) (cv knob : Control) (b : Block) :
    (runCtrl c cv knob b).1.lfsr = b.lfsr := rfl

@[simp] theorem runCtrl_bcnt (c : Config) (cv knob : Control) (b : Block) :
    (runCtrl c cv knob b).1.bcnt = b.bcnt := rfl

@[simp] theorem runCtrl_mode (c : Config) (cv knob : Control) (b : Block) :
    (runCtrl c cv knob b).1.mode = b.mode := rfl

@[simp] theorem runCtrl_buf (c : Config) (cv knob : Control) (b : Block) :
    (runCtrl c cv knob b).1.buf = b.buf := rfl

@[simp] theorem runCtrl_rsp (c : Config) (cv knob : Control) (b : Block) :
    (runCtrl c cv knob b).2 = answer 0 := rfl

/-! ### `runTrig` -/

@[simp] theorem runTrig_active (edge : Bool) (b : Block) :
    (runTrig edge b).1.active = b.active := rfl

@[simp] theorem runTrig_target (edge : Bool) (b : Block) :
    (runTrig edge b).1.target = b.target := rfl

@[simp] theorem runTrig_rampinc (edge : Bool) (b : Block) :
    (runTrig edge b).1.rampinc = b.rampinc := rfl

@[simp] theorem runTrig_wcur (edge : Bool) (b : Block) : (runTrig edge b).1.wcur = b.wcur := rfl

@[simp] theorem runTrig_rdpos (edge : Bool) (b : Block) : (runTrig edge b).1.rdpos = b.rdpos := rfl

@[simp] theorem runTrig_lastout (edge : Bool) (b : Block) :
    (runTrig edge b).1.lastout = b.lastout := rfl

@[simp] theorem runTrig_lfsr (edge : Bool) (b : Block) : (runTrig edge b).1.lfsr = b.lfsr := rfl

@[simp] theorem runTrig_bcnt (edge : Bool) (b : Block) :
    (runTrig edge b).1.bcnt = if edge then windowLen b.active else b.bcnt := rfl

@[simp] theorem runTrig_mode (edge : Bool) (b : Block) : (runTrig edge b).1.mode = b.mode := rfl

@[simp] theorem runTrig_buf (edge : Bool) (b : Block) : (runTrig edge b).1.buf = b.buf := rfl

@[simp] theorem runTrig_rsp (edge : Bool) (b : Block) : (runTrig edge b).2 = answer 0 := rfl

/-! ### `runMode` -/

@[simp] theorem runMode_active (fb dly : Option Bool) (b : Block) :
    (runMode fb dly b).1.active = b.active := rfl

@[simp] theorem runMode_target (fb dly : Option Bool) (b : Block) :
    (runMode fb dly b).1.target = b.target := rfl

@[simp] theorem runMode_rampinc (fb dly : Option Bool) (b : Block) :
    (runMode fb dly b).1.rampinc = b.rampinc := rfl

@[simp] theorem runMode_wcur (fb dly : Option Bool) (b : Block) :
    (runMode fb dly b).1.wcur = b.wcur := rfl

@[simp] theorem runMode_rdpos (fb dly : Option Bool) (b : Block) :
    (runMode fb dly b).1.rdpos = b.rdpos := rfl

@[simp] theorem runMode_lastout (fb dly : Option Bool) (b : Block) :
    (runMode fb dly b).1.lastout = b.lastout := rfl

@[simp] theorem runMode_lfsr (fb dly : Option Bool) (b : Block) :
    (runMode fb dly b).1.lfsr = b.lfsr := rfl

@[simp] theorem runMode_bcnt (fb dly : Option Bool) (b : Block) :
    (runMode fb dly b).1.bcnt = b.bcnt := rfl

@[simp] theorem runMode_mode (fb dly : Option Bool) (b : Block) :
    (runMode fb dly b).1.mode = writeFlags fb dly b.mode := rfl

@[simp] theorem runMode_buf (fb dly : Option Bool) (b : Block) :
    (runMode fb dly b).1.buf = b.buf := rfl

@[simp] theorem runMode_rsp (fb dly : Option Bool) (b : Block) :
    (runMode fb dly b).2 = answer 0 := rfl

/-! ### `runTick` -/

@[simp] theorem runTick_active (c : Config) (x : Sample) (b : Block) :
    (runTick c x b).1.active = tickActive b := rfl

@[simp] theorem runTick_target (c : Config) (x : Sample) (b : Block) :
    (runTick c x b).1.target = b.target := rfl

@[simp] theorem runTick_rampinc (c : Config) (x : Sample) (b : Block) :
    (runTick c x b).1.rampinc = b.rampinc := rfl

@[simp] theorem runTick_wcur (c : Config) (x : Sample) (b : Block) :
    (runTick c x b).1.wcur = b.wcur + 1 := rfl

@[simp] theorem runTick_rdpos (c : Config) (x : Sample) (b : Block) :
    (runTick c x b).1.rdpos = readPos b.wcur (tickLen c b) := rfl

@[simp] theorem runTick_lastout (c : Config) (x : Sample) (b : Block) :
    (runTick c x b).1.lastout = tickOut c b := rfl

@[simp] theorem runTick_lfsr (c : Config) (x : Sample) (b : Block) :
    (runTick c x b).1.lfsr = tickReg c b := rfl

@[simp] theorem runTick_bcnt (c : Config) (x : Sample) (b : Block) :
    (runTick c x b).1.bcnt = burstCount b.bcnt := rfl

@[simp] theorem runTick_mode (c : Config) (x : Sample) (b : Block) :
    (runTick c x b).1.mode = b.mode := rfl

@[simp] theorem runTick_buf (c : Config) (x : Sample) (b : Block) :
    (runTick c x b).1.buf = memWrite b.buf b.wcur (tickWritten c x b) := rfl

@[simp] theorem runTick_rsp (c : Config) (x : Sample) (b : Block) :
    (runTick c x b).2 = answer (tickOut c b) := rfl

end Sys2Proof.Machine
end

