-- ==== Sys2Proof/Laws/Exec.lean ====
section
/-! SUPPORT. One equation per command, and what any command does, whatever the parameters. -/

namespace Sys2Proof.Machine

@[simp] theorem exec_nop (s : State) : exec .nop s = .next (s.commit (runNop s.toBlock)) := rfl

@[simp] theorem exec_tick (x : Sample) (s : State) :
    exec (.tick x) s = .next (s.commit (runTick hw x s.toBlock)) := rfl

@[simp] theorem exec_ctrl (cv knob : Control) (s : State) :
    exec (.ctrl cv knob) s = .next (s.commit (runCtrl hw cv knob s.toBlock)) := rfl

@[simp] theorem exec_trig (edge : Bool) (s : State) :
    exec (.trig edge) s = .next (s.commit (runTrig edge s.toBlock)) := rfl

@[simp] theorem exec_mode (fb dly : Option Bool) (s : State) :
    exec (.mode fb dly) s = .next (s.commit (runMode fb dly s.toBlock)) := rfl

@[simp] theorem exec_reset (s : State) :
    exec .reset s = .next { s.commit (runReset hw s.toBlock) with inService := true } := rfl

theorem runRdreg_legal {rn : BitVec 4} {r : Reg} (h : regOfNum rn = some r) (b : Block) :
    runRdreg rn b = (b, answer (b.readReg r)) := by simp [runRdreg, h]

theorem runRdreg_reserved {rn : BitVec 4} (h : regOfNum rn = none) (b : Block) :
    runRdreg rn b = (b, illegal) := by simp [runRdreg, h]

/-- `RDREG` leaves the block alone. -/
@[simp] theorem runRdreg_block (rn : BitVec 4) (b : Block) : (runRdreg rn b).1 = b := by
  unfold runRdreg; split <;> rfl

theorem exec_rdreg {rn : BitVec 4} {r : Reg} (h : regOfNum rn = some r) (s : State) :
    exec (.rdreg rn) s = .next (s.commit (s.toBlock, answer (s.readReg r))) := by
  show Host.Outcome.next (s.commit (runRdreg rn s.toBlock)) = _
  rw [runRdreg_legal h]

theorem exec_rdreg_reserved {rn : BitVec 4} (h : regOfNum rn = none) (s : State) :
    exec (.rdreg rn) s = .next s.reject := by
  show Host.Outcome.next (s.commit (runRdreg rn s.toBlock)) = _
  rw [runRdreg_reserved h]; rfl

/-- `exec` is the command at the parameters of this hardware. -/
theorem exec_eq_execWith (i : Instr) (s : State) : exec i s = execWith hw i s := by cases i <;> rfl

/-- `step` is the step at the parameters of this hardware. -/
theorem step_eq_stepWith (s : State) : step s = stepWith hw s := by
  rw [step, stepWith, show exec = execWith hw from funext fun i => funext (exec_eq_execWith i)]

/-- Everything a command does, whatever the parameters: the block and the response as `runCommand` has
them, the host's side alone. -/
theorem execWith_cases {c : Config} {i : Instr} {s t : State} (h : execWith c i s = .next t) :
    t.toBlock = (runCommand c i s.toBlock).1 ∧ t.rsp = some (runCommand c i s.toBlock).2 ∧
      t.inbox = s.inbox ∧ t.abandons = s.abandons ∧
      (t.inService = true ↔ i = .reset ∨ s.inService = true) := by
  injection h with h; subst h
  exact ⟨rfl, rfl, rfl, rfl, by simp⟩

/-- Every command completes. -/
theorem execWith_completes (c : Config) (i : Instr) (s : State) : ∃ t, execWith c i s = .next t :=
  ⟨_, rfl⟩

/-- Only a tick writes the buffer. -/
theorem runCommand_buf (c : Config) (i : Instr) (b : Block) :
    (runCommand c i b).1.buf = b.buf ∨
      ∃ x, i = .tick x ∧ (runCommand c i b).1.buf = memWrite b.buf b.wcur (tickWritten c x b) := by
  cases i with
  | tick x => exact .inr ⟨x, rfl, rfl⟩
  | rdreg rn => exact .inl (congrArg Block.buf (runRdreg_block rn b))
  | _ => exact .inl rfl

end Sys2Proof.Machine
end

