-- ==== Sys2Proof/Laws/Memory.lean ====
section
/-! SUPPORT. The buffer: a read gives what was last written there, a write keeps the canonical form and
leaves every other slot alone. -/

namespace Sys2Proof.Machine

theorem lookup_erase_self (m : Memory) (a : Nat) : lookup (erase m a) a = bufInit a := by
  induction m with
  | nil => rfl
  | cons p m ih =>
    obtain ⟨k, w⟩ := p
    rw [erase]; split
    · exact ih
    · rw [lookup, if_neg (by omega), ih]

theorem lookup_erase_other {a b : Nat} (h : b ≠ a) (m : Memory) :
    lookup (erase m a) b = lookup m b := by
  induction m with
  | nil => rfl
  | cons p m ih =>
    obtain ⟨k, w⟩ := p
    rw [erase]; split
    · rw [lookup, if_neg (by omega), ih]
    · rw [lookup, lookup, ih]

theorem lookup_insertSlot_self {m : Memory} {a : Nat} (h : ∀ p ∈ m, p.1 ≠ a) (v : Sample) :
    lookup (insertSlot m a v) a = v := by
  induction m with
  | nil => simp [insertSlot, lookup]
  | cons p m ih =>
    obtain ⟨k, w⟩ := p
    have hk : a ≠ k := fun e => h (k, w) (by simp) e.symm
    rw [insertSlot]; split
    · simp [lookup]
    · rw [lookup, if_neg hk, ih fun q hq => h q (by simp [hq])]

theorem lookup_insertSlot_other {a b : Nat} (h : b ≠ a) (m : Memory) (v : Sample) :
    lookup (insertSlot m a v) b = lookup m b := by
  induction m with
  | nil => simp [insertSlot, lookup, h]
  | cons p m ih =>
    obtain ⟨k, w⟩ := p
    rw [insertSlot]; split
    · rw [lookup, if_neg h]
    · rw [lookup, lookup, ih]

theorem erase_lists_not {m : Memory} {a : Nat} : ∀ p ∈ erase m a, p.1 ≠ a := by
  induction m with
  | nil => simp [erase]
  | cons p m ih =>
    obtain ⟨k, w⟩ := p
    rw [erase]; split
    · exact ih
    · intro q hq
      rcases List.mem_cons.1 hq with rfl | hq
      · assumption
      · exact ih q hq

/-- A read of the slot just written. -/
@[simp] theorem memRead_memWrite_self (m : Memory) (i : Slot) (v : Sample) :
    memRead (memWrite m i v) i = v := by
  unfold memRead memWrite store; split
  · rename_i h; rw [lookup_erase_self, h]
  · exact lookup_insertSlot_self erase_lists_not v

/-- A read of another slot. -/
theorem memRead_memWrite_other {i j : Slot} (h : j ≠ i) (m : Memory) (v : Sample) :
    memRead (memWrite m i v) j = memRead m j := by
  have h' : j.toNat ≠ i.toNat := fun e => h (BitVec.eq_of_toNat_eq e)
  unfold memRead memWrite store; split
  · exact lookup_erase_other h' m
  · rw [lookup_insertSlot_other h', lookup_erase_other h']

theorem wfFrom_cons {lo k : Nat} {w : Sample} {m : Memory} :
    wfFrom lo ((k, w) :: m) = true ↔
      lo ≤ k ∧ k < 4096 ∧ w ≠ bufInit k ∧ wfFrom (k + 1) m = true := by
  simp [wfFrom, and_assoc]

theorem wfFrom_mono {lo lo' : Nat} {m : Memory} (h : wfFrom lo' m = true) (hl : lo ≤ lo') :
    wfFrom lo m = true := by
  cases m with
  | nil => rfl
  | cons p m => rw [wfFrom_cons] at h ⊢; exact ⟨by omega, h.2⟩

theorem wfFrom_erase {lo : Nat} {m : Memory} (a : Nat) (h : wfFrom lo m = true) :
    wfFrom lo (erase m a) = true := by
  induction m generalizing lo with
  | nil => rfl
  | cons p m ih =>
    obtain ⟨k, w⟩ := p
    rw [wfFrom_cons] at h
    rw [erase]; split
    · exact ih (wfFrom_mono h.2.2.2 (by omega))
    · exact wfFrom_cons.2 ⟨h.1, h.2.1, h.2.2.1, ih h.2.2.2⟩

theorem wfFrom_insertSlot {lo a : Nat} {m : Memory} {v : Sample} (h : wfFrom lo m = true)
    (hm : ∀ p ∈ m, p.1 ≠ a) (hv : v ≠ bufInit a) (hlo : lo ≤ a) (ha : a < 4096) :
    wfFrom lo (insertSlot m a v) = true := by
  induction m generalizing lo with
  | nil => exact wfFrom_cons.2 ⟨hlo, ha, hv, rfl⟩
  | cons p m ih =>
    obtain ⟨k, w⟩ := p
    have hk : k ≠ a := hm (k, w) (by simp)
    rw [wfFrom_cons] at h
    rw [insertSlot]; split
    · exact wfFrom_cons.2 ⟨hlo, ha, hv, wfFrom_cons.2 ⟨by omega, h.2⟩⟩
    · exact wfFrom_cons.2
        ⟨h.1, h.2.1, h.2.2.1, ih h.2.2.2 (fun q hq => hm q (by simp [hq])) (by omega)⟩

/-- A write keeps the canonical form. -/
theorem memWrite_wf {m : Memory} (i : Slot) (v : Sample) (h : Memory.wf m = true) :
    Memory.wf (memWrite m i v) = true := by
  unfold Memory.wf memWrite store at *; split
  · exact wfFrom_erase _ h
  · exact wfFrom_insertSlot (wfFrom_erase _ h) erase_lists_not ‹_› (Nat.zero_le _) i.isLt

theorem lookup_filtered (f : Nat → Sample) (n lo a : Nat) :
    lookup (((List.range' lo n).map fun k => (k, f k)).filter fun p => p.2 != bufInit p.1) a =
      if lo ≤ a ∧ a < lo + n then f a else bufInit a := by
  induction n generalizing lo with
  | zero => rw [if_neg (by omega)]; rfl
  | succ n ih =>
    rw [List.range'_succ, List.map_cons, List.filter_cons]
    by_cases hv : f lo = bufInit lo
    · rw [if_neg (by simp [hv]), ih]
      by_cases ha : a = lo
      · subst ha; rw [if_neg (by omega), if_pos (by omega), hv]
      · exact if_congr (by omega) rfl rfl
    · rw [if_pos (by simpa using hv), lookup, ih]
      by_cases ha : a = lo
      · subst ha; rw [if_pos rfl, if_pos (by omega)]
      · rw [if_neg ha]; exact if_congr (by omega) rfl rfl

theorem wfFrom_filtered (f : Nat → Sample) (n lo : Nat) (h : lo + n ≤ 4096) :
    wfFrom lo (((List.range' lo n).map fun k => (k, f k)).filter fun p => p.2 != bufInit p.1) =
      true := by
  induction n generalizing lo with
  | zero => rfl
  | succ n ih =>
    rw [List.range'_succ, List.map_cons, List.filter_cons]
    have ih := ih (lo + 1) (by omega)
    split
    · rename_i hv; exact wfFrom_cons.2 ⟨le_refl _, by omega, by simpa using hv, ih⟩
    · exact wfFrom_mono ih (by omega)

/-- A slot of the buffer that holds `init`: every contents of the slots is some memory. -/
@[simp] theorem memRead_bufOf (init : Slot → Sample) (i : Slot) : memRead (bufOf init) i = init i := by
  have := i.isLt
  rw [memRead, bufOf, List.range_eq_range', lookup_filtered (fun k => init (BitVec.ofNat 12 k)),
    if_pos (by omega), BitVec.ofNat_toNat, BitVec.setWidth_eq]

/-- That memory is in canonical form. -/
theorem bufOf_wf (init : Slot → Sample) : Memory.wf (bufOf init) = true := by
  rw [Memory.wf, bufOf, List.range_eq_range']
  exact wfFrom_filtered (fun k => init (BitVec.ofNat 12 k)) _ _ (le_refl _)

/-- The buffer of the state right after reset is in canonical form. -/
theorem reset_buf_wf : Memory.wf State.reset.buf = true := rfl

end Sys2Proof.Machine
end

