-- ==== Sys2Proof/Laws/Ops.lean ====
section
/-! SUPPORT. What the shared operations give, as integers, once. -/

namespace Sys2Proof.Machine

/-! ### Flags -/

@[simp] theorem writeFlags_fbmod (fb dly : Option Bool) (m : BitVec 2) :
    (writeFlags fb dly m).getLsbD 0 = fb.getD (m.getLsbD 0) := by
  simp only [writeFlags, BitVec.getLsbD_append]
  simp

@[simp] theorem writeFlags_dlymod (fb dly : Option Bool) (m : BitVec 2) :
    (writeFlags fb dly m).getLsbD 1 = dly.getD (m.getLsbD 1) := by
  simp only [writeFlags, BitVec.getLsbD_append]
  simp

/-! ### Lengths -/

theorem lenInt_eq (l : Length) : lenInt l = l.toNat / 16 := by
  simp [lenInt, osShift, Nat.shiftRight_eq_div_pow]

theorem lenFrac_eq (l : Length) : lenFrac l = l.toNat % 16 := by
  simp [lenFrac, BitVec.extractLsb'_toNat]

theorem windowLen_toNat (l : Length) : (windowLen l).toNat = l.toNat / 16 := by
  have := l.isLt
  simp only [windowLen, osShift, BitVec.toNat_ofNat, Nat.shiftRight_eq_div_pow]
  omega

/-! ### Mapper and ramp -/

theorem scaleTarget_toNat (c : Config) (v : BitVec 12) :
    ((scaleTarget c v).toNat : Int) =
      clamp (asr (expo c v * c.timeScale.toNat) 16) lenMin lenMax := by
  have h₁ := clamp_lower (v := asr (expo c v * c.timeScale.toNat) 16) (lo := lenMin) (hi := lenMax)
    (by decide)
  have h₂ := clamp_upper (v := asr (expo c v * c.timeScale.toNat) 16) (lo := lenMin) (hi := lenMax)
    (by decide)
  exact toNat_ofInt_of_fits (le_trans (by decide) h₁) (lt_of_le_of_lt h₂ (by decide))

/-- The three arms of the ramp, none of which narrows a value that does not fit. -/
theorem rampStep_cases (active target inc : Length) :
    ∃ dest : Int, dest = clamp target.toNat lenMin lenMax ∧
      (((dest - active.toNat).natAbs < inc.toNat ∧ ((rampStep active target inc).toNat : Int) = dest) ∨
      (inc.toNat ≤ (dest - active.toNat).natAbs ∧ 0 < dest - active.toNat ∧
        ((rampStep active target inc).toNat : Int) = active.toNat + inc.toNat) ∨
      (inc.toNat ≤ (dest - active.toNat).natAbs ∧ dest - active.toNat ≤ 0 ∧
        ((rampStep active target inc).toNat : Int) = active.toNat - inc.toNat)) := by
  obtain ⟨dest, hd⟩ : ∃ d, d = clamp target.toNat lenMin lenMax := ⟨_, rfl⟩
  have h₁ : 16 ≤ dest := hd ▸ clamp_lower (by decide)
  have h₂ : dest ≤ 65519 := hd ▸ clamp_upper (by decide)
  have ha := active.isLt
  refine ⟨dest, hd, ?_⟩
  unfold rampStep
  simp only [← hd]
  split
  · exact .inl ⟨by omega, toNat_ofInt_of_fits (by omega) (by omega)⟩
  · split
    · exact .inr (.inl ⟨by omega, by omega, toNat_ofInt_of_fits (by omega) (by omega)⟩)
    · exact .inr (.inr ⟨by omega, by omega, toNat_ofInt_of_fits (by omega) (by omega)⟩)

/-! ### Burst generator -/

theorem burstAct_iff (n : BitVec 12) : burstAct n = true ↔ n ≠ 0 := by simp [burstAct]

theorem burstReg_open {c : Config} {r n : BitVec 12} (h : n ≠ 0) :
    burstReg c r n = lfsrAdvance c r :=
  if_pos ((burstAct_iff n).2 h)

@[simp] theorem burstReg_closed (c : Config) (r : BitVec 12) : burstReg c r 0 = r := by
  simp [burstReg, burstAct]

theorem burstCount_toNat (n : BitVec 12) : (burstCount n).toNat = n.toNat - 1 := by
  unfold burstCount; split
  · rename_i h
    rw [burstAct_iff] at h
    have h0 : n.toNat ≠ 0 := fun e => h (BitVec.eq_of_toNat_eq e)
    have := n.isLt
    have h1 : (1 : BitVec 12).toNat = 1 := rfl
    rw [BitVec.toNat_sub, h1]; omega
  · rename_i h
    have : n = 0 := by simpa [burstAct] using h
    simp [this]

theorem perturbLen_off {active : Length} {act dlymod : Bool} (r : BitVec 12)
    (h : (act && dlymod) = false) : perturbLen active act dlymod r = active := by
  simp [perturbLen, h]

@[simp] theorem perturbGain_off (c : Config) (r : BitVec 12) : perturbGain c false r = c.fbGain := rfl

/-! ### Feedback -/

@[simp] theorem fbMix_off (x y : Sample) (g : BitVec 16) : fbMix false x y g = x := rfl

theorem fbMix_on (x y : Sample) (g : BitVec 16) :
    (fbMix true x y g).toInt = sat16 (x.toInt + asr (y.toInt * g.toNat) 16) := by
  obtain ⟨h₁, h₂⟩ := sat16_range (x.toInt + asr (y.toInt * g.toNat) 16)
  exact toInt_ofInt_of_fits h₁ h₂

/-! ### Slots -/

theorem slotA_toNat (w : Slot) (l : Length) :
    ((slotA w l).toNat : Int) = ((w.toNat : Int) - (l.toNat / 16 : Nat)) % 4096 := by
  rw [slotA, lenInt_eq, BitVec.toNat_ofInt]
  exact Int.toNat_of_nonneg (Int.emod_nonneg _ (by decide))

theorem slotB_toNat (w : Slot) (l : Length) :
    ((slotB w l).toNat : Int) = ((w.toNat : Int) - (l.toNat / 16 : Nat) - 1) % 4096 := by
  rw [slotB, lenInt_eq, BitVec.toNat_ofInt]
  exact Int.toNat_of_nonneg (Int.emod_nonneg _ (by decide))

end Sys2Proof.Machine
end

