-- ==== Sys2Proof/Laws/PerInstr.lean ====
section
/-! SUPPORT. Facts about every command as syntax, one lemma per constructor. -/

namespace Sys2Proof

/-- The opcode of a command (30_encoding.md R65). -/
def opcode : Instr → BitVec 4
  | .nop => 0
  | .tick _ => 1
  | .ctrl _ _ => 2
  | .trig _ => 3
  | .mode _ _ => 4
  | .rdreg _ => 5
  | .reset => 15

namespace Laws.EncodeOpcode

/-- Bits 31..28 of an encoded command are its opcode. -/
def Statement (i : Instr) : Prop := field 28 4 (encode i) = opcode i

theorem nop : Statement .nop := rfl

theorem tick (x : Sample) : Statement (.tick x) := by
  apply BitVec.eq_of_getLsbD_eq
  intro k hk
  simp only [field, encode, opcode, BitVec.getLsbD_extractLsb', BitVec.getLsbD_append]
  interval_cases k <;> simp

theorem ctrl (cv knob : Control) : Statement (.ctrl cv knob) := by
  apply BitVec.eq_of_getLsbD_eq
  intro k hk
  simp only [field, encode, opcode, BitVec.getLsbD_extractLsb', BitVec.getLsbD_append]
  interval_cases k <;> simp

theorem trig (edge : Bool) : Statement (.trig edge) := by
  cases edge <;> rfl

theorem mode (fb dly : Option Bool) : Statement (.mode fb dly) := by
  rcases fb with _ | _ | _ <;> rcases dly with _ | _ | _ <;> rfl

theorem rdreg (rn : BitVec 4) : Statement (.rdreg rn) := by
  apply BitVec.eq_of_getLsbD_eq
  intro k hk
  simp only [field, encode, opcode, BitVec.getLsbD_extractLsb', BitVec.getLsbD_append]
  interval_cases k <;> simp

theorem reset : Statement .reset := rfl

end Laws.EncodeOpcode

end Sys2Proof
end

