-- ==== Sys2Proof/Laws/Step.lean ====
section
/-! SUPPORT. Everything a step can do, once, whatever the parameters. -/

namespace Sys2Proof.Machine

theorem accept_legal {ex : Executor} {w : Word} {i : Instr} {s : State} (hd : decode w = .ok i)
    (hm : mayRun i s = true) : accept ex w s = ex i s := by simp [accept, hd, hm]

theorem accept_illegal {ex : Executor} {w : Word} {e : DecodeError} {s : State}
    (hd : decode w = .error e) (hs : s.inService = true) : accept ex w s = .next s.reject := by
  simp [accept, hd, hs]

/-- What a step that answers a next state did: nothing, a legal command, an illegal word, a reset by
the pin, or a command cut short. `step` is `stepBy hw exec`, `stepWith c` is `stepBy c (execWith c)`. -/
theorem stepBy_cases {c : Config} {ex : Executor} {s t : State} (h : stepBy c ex s = .next t) :
    (s.inbox = [] ∧ t = idle s) ∨
    (∃ w rest i, s.inbox = .cmd w :: rest ∧ decode w = .ok i ∧
      mayRun i { s with inbox := rest } = true ∧ ex i { s with inbox := rest } = .next t) ∨
    (∃ w rest e, s.inbox = .cmd w :: rest ∧ decode w = .error e ∧ s.inService = true ∧
      t = ({ s with inbox := rest } : State).reject) ∨
    (∃ rest, s.inbox = .rst :: rest ∧ t = resetPin c { s with inbox := rest }) ∨
    (∃ w rest, s.inbox = .rstDuring w :: rest ∧ t = abandon c ex w { s with inbox := rest }) := by
  unfold stepBy at h
  split at h
  · injection h with h; exact .inl ⟨‹_›, h.symm⟩
  · rename_i w rest hb
    unfold accept at h
    split at h
    · rename_i i hd
      split at h
      · exact .inr (.inl ⟨w, rest, i, hb, hd, ‹_›, h⟩)
      · cases h
    · rename_i e hd
      split at h
      · injection h with h; exact .inr (.inr (.inl ⟨w, rest, e, hb, hd, ‹_›, h.symm⟩))
      · cases h
  · injection h with h; exact .inr (.inr (.inr (.inl ⟨_, ‹_›, h.symm⟩)))
  · injection h with h; exact .inr (.inr (.inr (.inr ⟨_, _, ‹_›, h.symm⟩)))

/-- A command keeps the canonical form of the buffer. -/
theorem runCommand_wf (c : Config) (i : Instr) {b : Block} (hb : Memory.wf b.buf = true) :
    Memory.wf (runCommand c i b).1.buf = true := by
  obtain h | ⟨x, -, h⟩ := runCommand_buf c i b <;> rw [h]
  · exact hb
  · exact memWrite_wf _ _ hb

/-- The buffer a command cut short may leave is in canonical form. -/
theorem bufAfter_wf {c : Config} (w : Word) {s : State} (hs : Memory.wf s.buf = true) :
    Memory.wf (bufAfter (execWith c) w s) = true := by
  unfold bufAfter; split
  · exact runCommand_wf c _ hs
  · exact hs

end Sys2Proof.Machine
end

