-- ==== Sys2Proof/Tests/Slice0.lean ====
section
/-! SUPPORT. Tests with values from 95_test_vectors.md, the WellFormed smoke test, and for each statement
with hypotheses a witness that meets them. -/

namespace Sys2Proof.Tests

open Machine

/-! ### WellFormed and the decoder -/

theorem test_wellFormed_accepts : (Instr.rdreg 9).WellFormed = true := by decide

theorem test_wellFormed_refuses_register_ten : (Instr.rdreg 10).WellFormed = false := by decide

/-- Opcode 0, payload zero. -/
theorem test_decode_nop : decode 0b0000_0000000000000000000000000000 = .ok .nop := by decide

/-- Opcode 1, twelve zeros, `s`. -/
theorem test_decode_tick : decode 0b0001_000000000000_1000000000000001 = .ok (.tick (-32767)) := by
  decide

/-- Opcode 2, `cv`, `knob`: 95_test_vectors.md section 2.1, `ctrl 3000, -1000`. -/
theorem test_decode_ctrl :
    decode 0b0010_00101110111000_11110000011000 = .ok (.ctrl 3000 (-1000)) := by decide

/-- Opcode 3, twenty-seven zeros, `edge`. -/
theorem test_decode_trig : decode 0b0011_000000000000000000000000000_1 = .ok (.trig true) := by decide

/-- Opcode 4, twenty-four zeros, `dly_we`, `fb_we`, `dly`, `fb`: `mode 0, 1`. -/
theorem test_decode_mode :
    decode 0b0100_000000000000000000000000_1_1_1_0 = .ok (.mode (some false) (some true)) := by decide

/-- A value bit whose enable is 0 is ignored (30_encoding.md R71). -/
theorem test_decode_mode_ignored_bit :
    decode 0b0100_000000000000000000000000_0_1_1_0 = .ok (.mode (some false) none) := by decide

/-- Opcode 5, twenty-four zeros, `rn`. -/
theorem test_decode_rdreg : decode 0b0101_000000000000000000000000_0110 = .ok (.rdreg 6) := by decide

/-- Opcode 15, payload zero. -/
theorem test_decode_reset : decode 0b1111_0000000000000000000000000000 = .ok .reset := by decide

/-- 95_test_vectors.md section 2.10. -/
theorem test_decode_illegal :
    decode 0x00000001 = .error .reservedPayload ∧ decode 0x1FFF0000 = .error .reservedPayload ∧
    decode 0x30000002 = .error .reservedPayload ∧ decode 0x40000010 = .error .reservedPayload ∧
    decode 0x5000000F = .error .reservedRegister ∧ decode 0x50000010 = .error .reservedPayload ∧
    decode 0xE0000000 = .error .reservedOpcode ∧ decode 0xF0000001 = .error .reservedPayload := by
  decide

/-- The encoder emits 0 for an ignored value (30_encoding.md R73). -/
theorem test_encode_mode : encode (.mode none (some true)) = 0x4000000A := by decide

theorem test_decodeTableWord : decodeTableWord 32 0x50000009 = some (.rdreg 9) := by decide

/-! ### One step from a small state -/

/-- A state as 95_test_vectors.md writes one: `ACTIVE, TARGET, WCUR, RDPOS, LASTOUT, LFSR, BCNT,
MODE`. -/
def regs (s : State) : List Int :=
  [s.active.toNat, s.target.toNat, s.wcur.toNat, s.rdpos.toNat, s.lastout.toInt, s.lfsr.toNat,
    s.bcnt.toNat, s.mode.toNat]

/-- The state a command word leaves, from a state with that word on its port. -/
def after (w : Nat) (s : State) : State :=
  match step (s.withFetchWord 32 w) with
  | .next t => t
  | .fault _ => s
  | .refused _ => s

/-- Section 2.8, T1: the longest delay. -/
def longest : State :=
  { State.afterReset hw [(5, 5555), (6, 700), (7, -900)] with active := 65519, target := 65535, wcur := 5 }

theorem test_tick_longest_delay :
    regs (after 0x1000007B longest) = [65519, 65535, 6, 97, 600, 1, 0, 0] ∧
    memRead (after 0x1000007B longest).buf 5 = 123 := by decide

/-- Section 2.8, T3: the last tick of a window with both flags. -/
def lastOfWindow : State :=
  { State.afterReset hw [(4093, 5000), (4094, 3000), (4095, 1000)] with
    active := 32, target := 32, lfsr := 3310, bcnt := 1, mode := 3 }

theorem test_tick_last_of_window :
    regs (after 0x1000000A lastOfWindow) = [32, 32, 1, 65520, 1000, 1, 0, 3] ∧
    memRead (after 0x1000000A lastOfWindow).buf 0 = 509 := by decide

/-- Section 2.1. -/
theorem test_ctrl_negative_knob : (after 0x22EE3C18 State.reset).target = 4092 := by decide

theorem test_ctrl_clamps : (after 0x27FFDFFF State.reset).target = 240 := by decide

/-- Section 2.6. -/
theorem test_trig_rise : (after 0x30000001 longest).bcnt = 4094 := by decide

theorem test_trig_fall : (after 0x30000000 lastOfWindow).bcnt = 1 := by decide

/-- Section 2.9. -/
theorem test_mode_one_flag : (after 0x40000006 { State.reset with mode := 1 }).mode = 0 := by decide

theorem test_mode_both : (after 0x4000000E { State.reset with mode := 3 }).mode = 2 := by decide

theorem test_rdreg_lastout :
    (after 0x50000005 { State.reset with lastout := -321 }).rsp = some ⟨65215, false⟩ := by decide

theorem test_rdreg_status :
    (after 0x50000009 { State.reset with active := 16 }).rsp = some ⟨2, false⟩ := by decide

theorem test_reset_keeps_buffer :
    regs (after 0xF0000000 lastOfWindow) = [32768, 0, 0, 0, 0, 1, 0, 0] ∧
    (after 0xF0000000 lastOfWindow).buf = lastOfWindow.buf := by decide

theorem test_nop : after 0x00000000 longest = { longest with rsp := some ⟨0, false⟩ } := by decide

/-- Program P5: an illegal word. -/
theorem test_illegal_word : after 0x60000000 longest = { longest with rsp := some ⟨0, true⟩ } := by decide

/-! ### Witnesses: encoding and the port -/

theorem witness_DecodeOfEncode : (Instr.mode (some true) none).WellFormed = true := rfl

theorem witness_EncodeOfDecode :
    decode 0x40000001 = .ok (.mode none none) ∧ decode 0x50000009 = .ok (.rdreg 9) := by decide

/-- A block in service with a word on its port. -/
def withWord (w : Word) : State := { State.reset with inbox := [.cmd w] }

/-- A block before its first reset with a word on its port. -/
def unreset (w : Word) : State := { State.reset with inService := false, inbox := [.cmd w] }

theorem witness_StepRunsDecodedCommand :
    ((withWord 0x10000001).inbox = .cmd 0x10000001 :: [] ∧ decode 0x10000001 = .ok (.tick 1) ∧
      (withWord 0x10000001).inService = true) ∧
    ((unreset 0xF0000000).inbox = .cmd 0xF0000000 :: [] ∧ decode 0xF0000000 = .ok .reset) := by decide

theorem witness_IllegalWordIsFlaggedAndIgnored :
    (withWord 0x60000000).inbox = .cmd 0x60000000 :: [] ∧
    decode 0x60000000 = .error .reservedOpcode ∧ (withWord 0x60000000).inService = true ∧
    10 ≤ (10 : BitVec 4).toNat ∧ 10 ≤ (15 : BitVec 4).toNat := by decide

theorem witness_IdleBlockHoldsItsState : State.reset.inbox = [] := rfl

theorem witness_OnlyResetRunsBeforeReset :
    (unreset 0x10000001).inbox = .cmd 0x10000001 :: [] ∧ (unreset 0x10000001).inService = false ∧
    decode 0x10000001 ≠ .ok .reset := by decide

theorem witness_ResetPinActsAsReset :
    ({ longest with inbox := [.rst] } : State).inbox = .rst :: [] := rfl

theorem witness_AbandonedCommandTouchesOneSlot :
    ({ longest with inbox := [.rstDuring 0x10000001] } : State).inbox = .rstDuring 0x10000001 :: [] := rfl

theorem witness_EveryCommandFinishesAndAnswers :
    (withWord 0x10000001).inService = true ∧
    (withWord 0x10000001).inbox = .cmd 0x10000001 :: [] := by decide

/-! ### Witnesses: the commands -/

theorem witness_NopAnswersAndChangesNothing :
    (1 : Word).extractLsb' 28 4 = 0 ∧ (1 : Word) ≠ 0 := by decide

theorem witness_CtrlWritesMappedTarget :
    (-1 : Control).toInt + (1 : Control).toInt ≤ 0 ∧
    4095 ≤ (4095 : Control).toInt + (0 : Control).toInt ∧
    (0x2FFFFFFF : Word) &&& 0xF0000000 = 0x20000000 := by decide

theorem witness_TrigLoadsBurstWindow :
    RegsOk hw { State.reset.toBlock with active := 16 } ∧
    RegsOk hw { State.reset.toBlock with active := 65519 } ∧
    (0x30000001 : Word) &&& 0xFFFFFFFE = 0x30000000 := by decide

theorem witness_ModeWritesEnabledFlags : (0x4000000E : Word) &&& 0xFFFFFFF0 = 0x40000000 := by decide

theorem witness_RdregAnswersRegister :
    (9 : BitVec 4).toNat ≤ 9 ∧
    ((0x50000009 : Word) &&& 0xFFFFFFF0 = 0x50000000 ∧
      ((0x50000009 : Word).extractLsb' 0 4).toNat ≤ 9) ∧
    ((0x5000000A : Word) &&& 0xFFFFFFF0 = 0x50000000 ∧
      10 ≤ ((0x5000000A : Word).extractLsb' 0 4).toNat) := by decide

theorem witness_TickFrameOnRegisters : State.reset.bcnt = 0 := rfl

theorem witness_OnlyTickReachesTheBuffer :
    isTick .reset = false ∧ isTick (.rdreg 4) = false ∧
    exec .reset longest = .next { State.afterReset hw longest.buf with rsp := some ⟨0, false⟩ } :=
  ⟨rfl, rfl, rfl⟩

theorem witness_WritersOfEachRegister :
    exec (.trig true) longest = .next { longest with bcnt := 4094, rsp := some ⟨0, false⟩ } ∧
    Instr.trig true ≠ .reset := ⟨rfl, by decide⟩

/-! ### Witnesses: functions -/

/-- Parameters that 00_scope.md R7 allows, with a pseudo-random map that is the identity. -/
def plainConfig : Config := { hw with lfsrA := 12, lfsrB := 24, lfsrC := 12 }

theorem plainConfig_advance (r : BitVec 12) : lfsrAdvance plainConfig r = r := by
  apply BitVec.eq_of_getLsbD_eq
  intro k hk
  have hr := r.isLt
  have h24 : r.toNat ^^^ r.toNat <<< 12 < 2 ^ 24 :=
    Nat.xor_lt_two_pow (by omega) (by rw [Nat.shiftLeft_eq]; omega)
  have hk' : ¬12 ≤ k := by omega
  simp only [lfsrAdvance, lfsrSteps, plainConfig, BitVec.getLsbD_ofNat,
    Nat.shiftRight_eq_zero _ _ h24]
  simp [Nat.testBit_xor, hk, hk', BitVec.getLsbD]

theorem plainConfig_valid : plainConfig.Valid where
  lenInit_ge := by decide
  lenInit_le := by decide
  rampInc_pos := by decide
  lut_size := rfl
  lut_mono := by decide
  lut_first := rfl
  lut_last := rfl
  lfsr_bijective := by
    rw [show lfsrAdvance plainConfig = id from funext plainConfig_advance]
    exact Function.bijective_id
  lfsr_zero := plainConfig_advance 0

theorem witness_MapperIsMonotone :
    plainConfig.Valid ∧ (511 : BitVec 12).toNat ≤ (512 : BitVec 12).toNat ∧
    (-1 : Control).toInt ≤ (4095 : Control).toInt ∧ (0 : Control).toInt ≤ (0 : Control).toInt :=
  ⟨plainConfig_valid, by decide, by decide, by decide⟩

/-- The hypotheses of the arms of the ramp at their boundary values: the distances 3, 4, -4 and 0 with
the increment 4, and a length at each end of the range. -/
theorem witness_RampStepFollowsTheRule :
    (clamp (3834 : Length).toNat 16 65519 - (3831 : Length).toNat).natAbs < (4 : Length).toNat ∧
    ((4 : Length).toNat ≤ (clamp (3834 : Length).toNat 16 65519 - (3830 : Length).toNat).natAbs ∧
      0 < clamp (3834 : Length).toNat 16 65519 - (3830 : Length).toNat) ∧
    ((4 : Length).toNat ≤ (clamp (3834 : Length).toNat 16 65519 - (3838 : Length).toNat).natAbs ∧
      clamp (3834 : Length).toNat 16 65519 - (3838 : Length).toNat ≤ 0) ∧
    (clamp (3834 : Length).toNat 16 65519 - (3838 : Length).toNat).natAbs = (4 : Length).toNat ∧
    clamp (3834 : Length).toNat 16 65519 - (3834 : Length).toNat = 0 ∧
    InRange 16 ∧ InRange 65519 := by decide

theorem witness_EffectiveLengthStaysInRange :
    RegsOk hw State.reset.toBlock ∧
    ¬(State.reset.bcnt ≠ 0 ∧ State.reset.mode.getLsbD 1 = true) ∧
    (lastOfWindow.bcnt ≠ 0 ∧ lastOfWindow.mode.getLsbD 1 = true) := by decide

theorem witness_ReadPositionFollowsTheRule :
    (32 : Length).toNat % 16 = 0 ∧ (33 : Length).toNat % 16 ≠ 0 ∧ (47 : Length).toNat % 16 ≠ 0 := by
  decide

theorem witness_ReadNeverTouchesCursorSlot :
    InRange 16 ∧ InRange 65519 ∧ RegsOk hw lastOfWindow.toBlock := by decide

theorem witness_InterpolationLiesBetween : 0 < 16 ∧ 15 < 16 := by decide

theorem witness_FeedbackMixSaturates : (1 : BitVec 16) ≠ 0 ∧ (65535 : BitVec 16) ≠ 0 := by decide

theorem witness_LfsrRunsThroughEveryNonzeroValue : 0 < 4094 ∧ 4094 < 4095 := by decide

theorem witness_TickCountsTheWindowDown : lastOfWindow.bcnt ≠ 0 ∧ State.reset.bcnt = 0 := by decide

theorem witness_PerturbedLengthIsBounded :
    InRange 16 ∧ InRange 65519 ∧ (true && false) = false ∧ (false && true) = false := by decide

theorem witness_PerturbedGainIsBounded : (1 : BitVec 12) ≠ 0 ∧ (4095 : BitVec 12) ≠ 0 := by decide

/-! ### Witnesses: runs -/

/-- The states a list of commands passes through from `s`, with parameters `c`. -/
def runFrom (c : Config) (cmds : Nat → Instr) (s : State) : Nat → State
  | 0 => s
  | n + 1 =>
    match execWith c (cmds n) (runFrom c cmds s n) with
    | .next t => t
    | .fault _ => s
    | .refused _ => s

theorem runFrom_execution (c : Config) (cmds : Nat → Instr) (s : State) :
    Execution c cmds (runFrom c cmds s) := fun _ => rfl

/-- The run of ticks with inputs `x` from `s`. -/
def ticksFrom (x : Nat → Sample) (s : State) : Nat → State := runFrom hw (fun t => .tick (x t)) s

/-- A length `l` is settled: the ramp, at rest, keeps it, and no window perturbs it. -/
theorem settled_run {x : Nat → Sample} {s : State} {l : Length} (hr : rampStep l l s.rampinc = l)
    (ha : s.active = l) (ht : s.target = l) (hb : s.bcnt = 0) (t : Nat) :
    tickLen hw (ticksFrom x s t).toBlock = l ∧ (ticksFrom x s t).bcnt = 0 := by
  have inv : ∀ t, (ticksFrom x s t).active = l ∧ (ticksFrom x s t).target = l ∧
      (ticksFrom x s t).bcnt = 0 ∧ (ticksFrom x s t).rampinc = s.rampinc := by
    intro t
    induction t with
    | zero => exact ⟨ha, ht, hb, rfl⟩
    | succ t ih =>
      obtain ⟨h₁, h₂, h₃, h₄⟩ := ih
      show (runTick hw (x t) (ticksFrom x s t).toBlock).1.active = l ∧ _
      refine ⟨?_, h₂, ?_, h₄⟩
      · rw [runTick_active, tickActive, h₁, h₂, h₄, hr]
      · show burstCount (ticksFrom x s t).bcnt = 0
        rw [h₃]; rfl
  obtain ⟨h₁, h₂, h₃, h₄⟩ := inv t
  refine ⟨?_, h₃⟩
  unfold tickLen
  rw [perturbLen_off _ (by simp [tickAct, burstAct, h₃]), tickActive, h₁, h₂, h₄, hr]

/-- A state settled at a length (95_test_vectors.md E1 with 32, E2 with 40), mode bits `m`. -/
def settledAt (l : Length) (m : BitVec 2) : State :=
  { State.reset with active := l, target := l, mode := m }

/-- The input of 95_test_vectors.md P3: an impulse. -/
def impulse (t : Nat) : Sample := if t = 0 then 16384 else 0

theorem witness_RampConvergesWithoutOvershoot :
    (1 ≤ (4 : Length).toNat ∧ InRange 16 ∧ InRange 65519) ∧
    (∃ (cmds : Nat → Instr) (st : Nat → State), st 0 = State.afterReset hw longest.buf ∧
      Execution hw cmds st ∧ (∀ t, writesTarget (cmds t) = false) ∧ 1 ≤ (st 0).rampinc.toNat ∧
      ∀ t, ticksBefore cmds t = t) :=
  ⟨by decide, fun _ => .tick 7, runFrom hw _ (State.afterReset hw longest.buf), rfl,
    runFrom_execution _ _ _, fun _ => rfl, by decide,
    fun t => by induction t with
      | zero => rfl
      | succ t ih => show ticksBefore _ t + 1 = t + 1; rw [ih]⟩

theorem witness_BurstWindowLastsItsLength :
    (∃ (s : State) (cmds : Nat → Instr) (st : Nat → State), Execution plainConfig cmds st ∧
      execWith plainConfig (.trig true) s = .next (st 0) ∧
      (∀ t, cmds t ≠ .trig true ∧ cmds t ≠ .reset) ∧ RegsOk plainConfig s.toBlock) ∧
    (∃ (cmds : Nat → Instr) (st : Nat → State), Execution hw cmds st ∧ (st 0).lfsr = 1 ∧
      ∀ t, cmds t ≠ .reset) :=
  ⟨⟨State.reset, fun _ => .tick 7,
    runFrom plainConfig _ { State.reset with bcnt := 2048, rsp := some ⟨0, false⟩ },
    runFrom_execution _ _ _, rfl, fun _ => ⟨by simp, by simp⟩, by decide⟩,
   ⟨fun _ => .tick 7, runFrom hw _ State.reset, runFrom_execution _ _ _, rfl, fun _ => by simp⟩⟩

theorem witness_ExactDelayIdentity :
    (∃ (x : Nat → Sample) (st : Nat → State), TickRun hw x st ∧ (st 0).fbmod = false ∧
      (∀ t, (tickLen hw (st t).toBlock).toNat = 16 * 2) ∧
      (st 0).active.toNat = 32 ∧ (st 0).target.toNat = 32 ∧
      ((st 0).dlymod = false ∨ (st 0).bcnt = 0)) ∧
    (∃ (x : Nat → Sample) (st : Nat → State), TickRun hw x st ∧ (st 0).fbmod = false ∧
      ∀ t, (tickLen hw (st t).toBlock).toNat = 16 * 4094 + 15) :=
  ⟨⟨impulse, ticksFrom impulse (settledAt 32 0), runFrom_execution _ _ _, rfl,
    fun t => by rw [(settled_run (l := 32) (by decide) rfl rfl rfl t).1]; rfl, rfl, rfl, .inl rfl⟩,
   ⟨impulse, ticksFrom impulse (settledAt 65519 0), runFrom_execution _ _ _, rfl,
    fun t => by rw [(settled_run (l := 65519) (by decide) rfl rfl rfl t).1]; rfl⟩⟩

theorem witness_ImpulseGivesEchoTrain :
    ∃ (x : Nat → Sample) (st : Nat → State), TickRun hw x st ∧ (st 0).fbmod = true ∧
      (∀ t, (st t).bcnt = 0) ∧ (∀ t, (tickLen hw (st t).toBlock).toNat = 16 * 15) ∧
      (∀ j, j < 15 → memRead (st 0).buf (BitVec.ofInt 12 ((st 0).wcur.toNat + j - 15)) = 0) ∧
      (x 0).toInt = (16384 : Nat) ∧ (∀ t, 1 ≤ t → x t = 0) :=
  ⟨impulse, ticksFrom impulse (settledAt 240 1), runFrom_execution _ _ _, rfl,
    fun t => (settled_run (l := 240) (by decide) rfl rfl rfl t).2,
    fun t => by rw [(settled_run (l := 240) (by decide) rfl rfl rfl t).1]; rfl,
    fun _ _ => rfl, rfl, fun t ht => if_neg (by omega)⟩

/-- Ticks with other commands between them. -/
def mixed (t : Nat) : Instr := if t = 1 then .ctrl 0 2048 else if t = 2 then .trig true else .tick 7

/-- Both clauses about `k`: after four commands, two of them ticks, `k` is 1 or 2 and then 3 to 4096. -/
theorem witness_SlotHoldsTheTickThatWroteIt :
    (∃ st : Nat → State, Execution hw mixed st ∧ (∀ t, mixed t ≠ .reset)) ∧
    (1 ≤ 2 ∧ 2 ≤ 4096 ∧ 2 ≤ ticksBefore mixed 4) ∧ (ticksBefore mixed 4 < 3 ∧ 4096 ≤ 4096) ∧
    ({ longest with inbox := [.rst] } : State).inbox = .rst :: [] ∧
    (exec (.tick 7) longest = .next (longest.commit (runTick hw 7 longest.toBlock)) ∧
      (longest.commit (runTick hw 7 longest.toBlock)).buf ≠ longest.buf) :=
  ⟨⟨runFrom hw mixed State.reset, runFrom_execution _ _ _,
    fun t => by unfold mixed; split <;> (try split) <;> simp⟩,
    by decide, by decide, rfl, rfl, by decide⟩

theorem witness_SilenceFlushesTheBuffer :
    ∃ st : Nat → State, TickRun hw (fun _ => 0) st ∧ (st 0).fbmod = false :=
  ⟨ticksFrom (fun _ => 0) longest, runFrom_execution _ _ _, rfl⟩

theorem witness_CanonicalBuffersAreEqual :
    Memory.wf [(0, 1), (4095, -1)] = true ∧ Memory.wf (memWrite [(0, 1)] 4095 (-1)) = true ∧
    memWrite [(0, 1)] 4095 (-1) = [(0, 1), (4095, -1)] := by decide

theorem test_unordered_buffer_is_not_canonical :
    Memory.wf [(5, 1), (4, 1)] = false ∧ Memory.wf [(4096, 1)] = false ∧
    Memory.wf [(4, bufInit 4)] = false := by decide

/-! ### Witnesses: the whole machine -/

theorem witness_InvariantHoldsAtReset : Memory.wf longest.buf = true := by decide

/-- A slot of `BUF_INIT`, listed and not. -/
theorem test_bufOf :
    memRead (bufOf fun i => if i = 4095 then 7 else 0) 4095 = 7 ∧
    memRead (bufOf fun i => if i = 4095 then 7 else 0) 3 = 0 := ⟨by simp, by simp⟩

theorem witness_ResetStateHoldsTheTable :
    ({ longest with inbox := [.rst] } : State).inbox = .rst :: [] := rfl

theorem witness_EveryStepKeepsTheInvariant :
    Inv hw (withWord 0x30000001) ∧
    step (withWord 0x30000001) = .next { State.reset with bcnt := 2048, rsp := some ⟨0, false⟩ } :=
  ⟨by decide, rfl⟩

theorem witness_ReachableStatesKeepTheInvariants :
    ∃ (b : Memory) (cmds : Nat → Instr) (st : Nat → State), plainConfig.Valid ∧
      st 0 = State.afterReset plainConfig b ∧ Execution plainConfig cmds st ∧
      (∃ t k cv knob, k < t ∧ cmds k = .ctrl cv knob ∧ (st t).target = 0) :=
  ⟨longest.buf, fun t => if t = 0 then .ctrl 0 2048 else .reset,
    runFrom plainConfig _ (State.afterReset plainConfig longest.buf), plainConfig_valid, rfl,
    runFrom_execution _ _ _, 2, 0, 0, 2048, by decide, rfl, rfl⟩

theorem witness_EveryConfigKeepsTheRanges :
    plainConfig.Valid ∧ Memory.wf longest.buf = true ∧ Inv plainConfig (withWord 0x30000001) ∧
    stepWith plainConfig (withWord 0x30000001) =
      .next { State.reset with bcnt := 2048, rsp := some ⟨0, false⟩ } ∧
    RegsOk plainConfig State.reset.toBlock ∧
    execWith plainConfig (.trig true) State.reset =
      .next { State.reset with bcnt := 2048, rsp := some ⟨0, false⟩ } :=
  ⟨plainConfig_valid, by decide, by decide, rfl, by decide, rfl⟩

theorem witness_HardwareIsTheMachineAtItsParameters :
    (withWord 0x10000001).inbox = .cmd 0x10000001 :: [] ∧ decode 0x10000001 = .ok (.tick 1) ∧
    (withWord 0x10000001).inService = true ∧
    (unreset 0xF0000000).inbox = .cmd 0xF0000000 :: [] ∧ decode 0xF0000000 = .ok .reset := by decide

theorem witness_CommandsActOnTheBlockAlone :
    (withWord 0).toBlock = State.reset.toBlock ∧ withWord 0 ≠ State.reset := by decide

theorem witness_ExpoTableHoldsItsEntries : 0 ≤ 32 ∧ 32 ≤ 32 ∧ 31 < 32 := by decide

theorem witness_ControlCommandsCommute :
    (∃ cv knob e, Instr.ctrl 1 2 = .ctrl cv knob ∧ Instr.trig true = .trig e) ∧
    (∃ cv knob fb dly, Instr.ctrl 1 2 = .ctrl cv knob ∧ Instr.mode (some true) none = .mode fb dly) ∧
    (∃ e fb dly, Instr.trig true = .trig e ∧ Instr.mode (some true) none = .mode fb dly) ∧
    (∃ rn, Instr.rdreg 9 = .rdreg rn) :=
  ⟨⟨1, 2, true, rfl, rfl⟩, ⟨1, 2, some true, none, rfl, rfl⟩, ⟨true, some true, none, rfl, rfl⟩,
    ⟨9, rfl⟩⟩

end Sys2Proof.Tests
end

section
/-! PROOFS. The block's state (10_state.md): the derived status bits and the pins (R29), the six
invariants (R30) and the reset table (R31). -/

namespace Sys2Proof.Machine

/-! ### Lengths in range -/

theorem inRange_iff {l : Length} : InRange l ↔ 16 ≤ l.toNat ∧ l.toNat ≤ 65519 := by
  unfold InRange lenMin lenMax
  omega

theorem InRange.ne_zero {l : Length} (h : InRange l) : l ≠ 0 := by
  rintro rfl
  exact absurd h (by decide)

/-- A value clamped to `LEN_MIN .. LEN_MAX` fits a length. -/
theorem inRange_ofInt_clamp (v : Int) : InRange (BitVec.ofInt 16 (clamp v lenMin lenMax)) := by
  have hlo : lenMin ≤ clamp v lenMin lenMax := clamp_lower (by decide)
  have hhi : clamp v lenMin lenMax ≤ lenMax := clamp_upper (by decide)
  have hval := toNat_ofInt_of_fits (w := 16) (le_trans (by decide) hlo)
    (lt_of_le_of_lt hhi (by decide))
  rw [InRange, hval]
  exact ⟨hlo, hhi⟩

theorem mapTarget_inRange (c : Config) (cv knob : Control) : InRange (mapTarget c cv knob) :=
  inRange_ofInt_clamp _

/-- Each arm of the ramp ends between the length it starts at and the clamped target. -/
theorem rampStep_inRange {active : Length} (h : InRange active) (target inc : Length) :
    InRange (rampStep active target inc) := by
  obtain ⟨dest, hdest, harms⟩ := rampStep_cases active target inc
  have hlo : 16 ≤ dest := hdest ▸ clamp_lower (by decide)
  have hhi : dest ≤ 65519 := hdest ▸ clamp_upper (by decide)
  rw [inRange_iff] at h ⊢
  obtain ⟨-, hnew⟩ | ⟨hfar, hpos, hnew⟩ | ⟨hfar, hneg, hnew⟩ := harms <;> omega

theorem perturbLen_inRange {active : Length} (h : InRange active) (act dlymod : Bool)
    (r : BitVec 12) : InRange (perturbLen active act dlymod r) := by
  unfold perturbLen
  split
  · exact inRange_ofInt_clamp _
  · exact h

theorem tickActive_inRange {b : Block} (h : InRange b.active) : InRange (tickActive b) :=
  rampStep_inRange h _ _

theorem tickLen_inRange (c : Config) {b : Block} (h : InRange b.active) :
    InRange (tickLen c b) :=
  perturbLen_inRange (tickActive_inRange h) _ _ _

/-! ### The slots of a read -/

/-- A length in range is 1 to 4094 whole samples, never 0 modulo 4096. -/
theorem slotA_ne_cursor (w : Slot) {l : Length} (h : InRange l) : slotA w l ≠ w := by
  rw [inRange_iff] at h
  intro heq
  have hslot := slotA_toNat w l
  rw [heq] at hslot
  omega

/-- The older neighbour is 2 to 4095 slots back, never 0 modulo 4096. -/
theorem slotB_ne_cursor (w : Slot) {l : Length} (h : InRange l) : slotB w l ≠ w := by
  rw [inRange_iff] at h
  intro heq
  have hslot := slotB_toNat w l
  rw [heq] at hslot
  omega

/-! ### The registers stay in their ranges (10_state.md R30) -/

theorem lfsrAdvance_ne_zero {c : Config} (hc : c.Valid) {r : BitVec 12} (h : r ≠ 0) :
    lfsrAdvance c r ≠ 0 := fun hzero =>
  h (hc.lfsr_bijective.injective (hzero.trans hc.lfsr_zero.symm))

theorem burstReg_ne_zero {c : Config} (hc : c.Valid) {r : BitVec 12} (h : r ≠ 0)
    (n : BitVec 12) : burstReg c r n ≠ 0 := by
  unfold burstReg
  split
  · exact lfsrAdvance_ne_zero hc h
  · exact h

theorem burstCount_le {n : BitVec 12} (h : n.toNat ≤ 4094) : (burstCount n).toNat ≤ 4094 := by
  rw [burstCount_toNat]
  omega

theorem windowLen_le {l : Length} (h : InRange l) : (windowLen l).toNat ≤ 4094 := by
  rw [inRange_iff] at h
  rw [windowLen_toNat]
  omega

theorem afterReset_regsOk {c : Config} (hc : c.Valid) (m : Memory) :
    RegsOk c (Block.afterReset c m) :=
  ⟨⟨hc.lenInit_ge, hc.lenInit_le⟩, (by decide : lfsrSeed ≠ 0), Nat.zero_le _, .inl rfl, rfl⟩

/-- Every command keeps R30 (a) to (d). -/
theorem runCommand_regsOk {c : Config} (hc : c.Valid) (i : Instr) {b : Block} (h : RegsOk c b) :
    RegsOk c (runCommand c i b).1 := by
  obtain ⟨hactive, hlfsr, hbcnt, htarget, hrampinc⟩ := h
  cases i with
  | nop => exact ⟨hactive, hlfsr, hbcnt, htarget, hrampinc⟩
  | tick x =>
    exact ⟨tickActive_inRange hactive, burstReg_ne_zero hc hlfsr _, burstCount_le hbcnt, htarget,
      hrampinc⟩
  | ctrl cv knob =>
    exact ⟨hactive, hlfsr, hbcnt, .inr (mapTarget_inRange c cv knob), hrampinc⟩
  | trig edge =>
    cases edge with
    | false => exact ⟨hactive, hlfsr, hbcnt, htarget, hrampinc⟩
    | true => exact ⟨hactive, hlfsr, windowLen_le hactive, htarget, hrampinc⟩
  | mode fb dly => exact ⟨hactive, hlfsr, hbcnt, htarget, hrampinc⟩
  | rdreg rn =>
    show RegsOk c (runRdreg rn b).1
    rw [runRdreg_block]
    exact ⟨hactive, hlfsr, hbcnt, htarget, hrampinc⟩
  | reset => exact afterReset_regsOk hc b.buf

/-- A command that leaves `TARGET` at 0 is no `CTRL`, and is a `RESET` if it did not find it at 0. -/
theorem runCommand_target_eq_zero {c : Config} {i : Instr} {b : Block}
    (h : (runCommand c i b).1.target = 0) :
    (∀ cv knob, i ≠ .ctrl cv knob) ∧ (i = .reset ∨ b.target = 0) := by
  cases i with
  | ctrl cv knob => exact absurd h (mapTarget_inRange c cv knob).ne_zero
  | reset => exact ⟨nofun, .inl rfl⟩
  | rdreg rn =>
    change (runRdreg rn b).1.target = 0 at h
    rw [runRdreg_block] at h
    exact ⟨nofun, .inr h⟩
  | _ => exact ⟨nofun, .inr h⟩

/-! ### Runs -/

theorem Execution.toBlock_succ {c : Config} {cmds : Nat → Instr} {st : Nat → State}
    (h : Execution c cmds st) (t : Nat) :
    (st (t + 1)).toBlock = (runCommand c (cmds t) (st t).toBlock).1 :=
  (execWith_cases (h t)).1

/-- What holds of the block at the start of a run and is kept by every command holds all along it. -/
theorem Execution.keeps {c : Config} {cmds : Nat → Instr} {st : Nat → State} {P : Block → Prop}
    (h : Execution c cmds st) (hstart : P (st 0).toBlock)
    (hkeep : ∀ i b, P b → P (runCommand c i b).1) (t : Nat) : P (st t).toBlock := by
  induction t with
  | zero => exact hstart
  | succ t ih =>
    rw [h.toBlock_succ]
    exact hkeep _ _ ih

/-- Once a `CTRL` has run, `TARGET` is 0 only after a later `RESET`. -/
theorem Execution.reset_after_ctrl {c : Config} {cmds : Nat → Instr} {st : Nat → State}
    (h : Execution c cmds st) {t : Nat} (hzero : (st t).target = 0) {k : Nat} {cv knob : Control}
    (hk : k < t) (hctrl : cmds k = .ctrl cv knob) : ∃ j, k < j ∧ j < t ∧ cmds j = .reset := by
  induction t with
  | zero => exact absurd hk (Nat.not_lt_zero k)
  | succ t ih =>
    rw [h.toBlock_succ] at hzero
    obtain ⟨hnoCtrl, hlast⟩ := runCommand_target_eq_zero hzero
    have hkt : k < t := by
      refine lt_of_le_of_ne (Nat.lt_succ_iff.1 hk) ?_
      rintro rfl
      exact hnoCtrl cv knob hctrl
    obtain hreset | hzero := hlast
    · exact ⟨t, hkt, Nat.lt_succ_self t, hreset⟩
    · obtain ⟨j, hkj, hjt, hreset⟩ := ih hzero hkt
      exact ⟨j, hkj, Nat.lt_succ_of_lt hjt, hreset⟩

/-- Settles O49: R30 (a) to (d) hold after a reset and every command keeps them, `TARGET` leaves 0 at
a `CTRL` and returns to it only at a `RESET`, and a tick reads at a length in range. -/
theorem reachableStatesKeepTheInvariants : Obligations.ReachableStatesKeepTheInvariants := by
  intro c b cmds st hc hstart hrun t
  have hreset : RegsOk c (st 0).toBlock := by
    rw [hstart]
    exact afterReset_regsOk hc b
  obtain ⟨hactive, hlfsr, hbcnt, htarget, -⟩ :=
    hrun.keeps (P := RegsOk c) hreset (fun i _ => runCommand_regsOk hc i) t
  have hlen := tickLen_inRange c hactive
  exact ⟨inRange_iff.1 hactive, hlfsr, hbcnt, htarget.imp_right inRange_iff.1,
    fun hzero _ _ _ => hrun.reset_after_ctrl hzero, Nat.le_of_lt_succ (st t).wcur.isLt,
    slotA_ne_cursor _ hlen, slotB_ne_cursor _ hlen⟩

/-! ### The status bits (10_state.md R29) -/

@[simp] theorem status_getLsbD_zero (b : Block) : b.status.getLsbD 0 = b.burstActive := by
  simp only [Block.status, BitVec.getLsbD_append]
  simp

@[simp] theorem status_getLsbD_one (b : Block) : b.status.getLsbD 1 = b.settled := by
  simp only [Block.status, BitVec.getLsbD_append]
  simp

theorem burstActive_iff (b : Block) : b.burstActive = true ↔ b.bcnt ≠ 0 := bne_iff_ne

theorem settled_iff (b : Block) :
    b.settled = true ↔ (b.active.toNat : Int) = clamp b.target.toNat 16 65519 := decide_eq_true_iff

/-- `BCNT` is 0 and `LEN_INIT` of this hardware is not the clamped `TARGET`, which is `LEN_MIN`. -/
theorem afterReset_status (m : Memory) : (State.afterReset hw m).status = 0 := by
  have hburst : (State.afterReset hw m).burstActive = false := rfl
  have hsettled : (State.afterReset hw m).settled = false :=
    decide_eq_false
      (by decide : ((32768 : Length).toNat : Int) ≠ clamp (0 : Length).toNat lenMin lenMax)
  rw [Block.status, hburst, hsettled]
  rfl

/-- Settles O54: each bit of `STATUS` is its pin, which is a test on `BCNT` or on `ACTIVE` and
`TARGET`. -/
theorem statusBitsAreDerived : Obligations.StatusBitsAreDerived := by
  refine ⟨fun s => ⟨?_, ?_, ?_, ?_, rfl⟩, afterReset_status⟩
  · rw [status_getLsbD_zero, burstActive_iff]
  · rw [status_getLsbD_one, settled_iff]
  · exact (status_getLsbD_zero _).symm
  · exact (status_getLsbD_one _).symm

/-! ### The reset table (10_state.md R31) -/

theorem stepWith_rst {c : Config} {s : State} {rest : List PortEvent} (h : s.inbox = .rst :: rest) :
    stepWith c s = .next (resetPin c { s with inbox := rest }) := by
  simp only [stepWith, stepBy, h]

/-- Settles O46: the table is `Block.afterReset`, and the command and the pin both return every
register to it and keep the buffer. -/
theorem resetStateHoldsTheTable : Obligations.ResetStateHoldsTheTable := by
  refine ⟨fun c b => ?table, fun b => ⟨rfl, rfl, afterReset_status b⟩,
    fun c s => ⟨⟨_, rfl, rfl⟩, fun rest h => ⟨_, stepWith_rst h, rfl⟩⟩,
    fun init j => by rw [powerOn_buf, memRead_bufOf]⟩
  exact ⟨rfl, rfl, rfl, rfl, rfl, rfl, rfl, rfl, rfl, rfl⟩

end Sys2Proof.Machine
end

section
/-! PROOFS. The buffer as a ring (20_memory.md R46): what one command does to the cursor and the slots,
and what a slot behind the cursor holds along a run. -/

namespace Sys2Proof.Machine

/-! ### Slots behind a cursor -/

/-- The slot `k` behind the cursor `w`, `(w - k) mod 4096` (20_memory.md R46). -/
def slotBehind (w : Slot) (k : Nat) : Slot := BitVec.ofInt 12 (w.toNat - k)

theorem slotBehind_toNat (w : Slot) (k : Nat) :
    ((slotBehind w k).toNat : Int) = ((w.toNat : Int) - k) % 4096 := by
  rw [slotBehind, BitVec.toNat_ofInt]
  exact Int.toNat_of_nonneg (Int.emod_nonneg _ (by decide))

@[simp] theorem slotBehind_zero (w : Slot) : slotBehind w 0 = w := by
  have hslot := slotBehind_toNat w 0
  exact BitVec.eq_of_toNat_eq (by omega)

/-- When the cursor moves on, every slot is one further behind. -/
@[simp] theorem slotBehind_succ (w : Slot) (k : Nat) :
    slotBehind (w + 1) (k + 1) = slotBehind w k := by
  have hnew := slotBehind_toNat (w + 1) (k + 1)
  have hold := slotBehind_toNat w k
  have hcursor : (w + 1).toNat = (w.toNat + 1) % 4096 := BitVec.toNat_add w 1
  exact BitVec.eq_of_toNat_eq (by omega)

theorem slotBehind_ne_cursor (w : Slot) {k : Nat} (hpos : 1 ≤ k) (hlt : k < 4096) :
    slotBehind w k ≠ w := by
  intro heq
  have hslot := slotBehind_toNat w k
  rw [heq] at hslot
  omega

/-! ### What a command does to the ring -/

/-- A command other than `RESET` leaves the cursor and the buffer alone, or is a tick. -/
theorem runCommand_ring (c : Config) {i : Instr} (hi : i ≠ .reset) (b : Block) :
    (isTick i = false ∧ (runCommand c i b).1.wcur = b.wcur ∧ (runCommand c i b).1.buf = b.buf) ∨
      ∃ x, i = .tick x := by
  cases i with
  | tick x => exact .inr ⟨x, rfl⟩
  | reset => exact absurd rfl hi
  | rdreg rn =>
    have hblock := runRdreg_block rn b
    exact .inl ⟨rfl, congrArg Block.wcur hblock, congrArg Block.buf hblock⟩
  | _ => exact .inl ⟨rfl, rfl, rfl⟩

/-- A command that changes the buffer is a tick. -/
theorem exec_changes_buf {i : Instr} {s t : State} (h : exec i s = .next t) (hbuf : t.buf ≠ s.buf) :
    isTick i = true := by
  rw [exec_eq_execWith] at h
  obtain ⟨hblock, -⟩ := execWith_cases h
  obtain hsame | ⟨x, rfl, -⟩ := runCommand_buf hw i s.toBlock
  · exact absurd ((congrArg Block.buf hblock).trans hsame) hbuf
  · rfl

theorem ticksBefore_succ_tick {cmds : Nat → Instr} {n : Nat} (h : isTick (cmds n) = true) :
    ticksBefore cmds (n + 1) = ticksBefore cmds n + 1 := by
  rw [ticksBefore, if_pos h]

theorem ticksBefore_succ_other {cmds : Nat → Instr} {n : Nat} (h : isTick (cmds n) = false) :
    ticksBefore cmds (n + 1) = ticksBefore cmds n := by
  rw [ticksBefore, if_neg (by rw [h]; decide), Nat.add_zero]

/-- One command of a run without `RESET`, as the ring sees it: nothing changes, or a tick writes the
slot at the cursor and moves the cursor on. -/
theorem Execution.ring_succ {c : Config} {cmds : Nat → Instr} {st : Nat → State}
    (h : Execution c cmds st) {n : Nat} (hn : cmds n ≠ .reset) :
    (ticksBefore cmds (n + 1) = ticksBefore cmds n ∧ (st (n + 1)).wcur = (st n).wcur ∧
      (st (n + 1)).buf = (st n).buf) ∨
    ∃ x, cmds n = .tick x ∧ ticksBefore cmds (n + 1) = ticksBefore cmds n + 1 ∧
      (st (n + 1)).wcur = (st n).wcur + 1 ∧
      (st (n + 1)).buf = memWrite (st n).buf (st n).wcur (tickWritten c x (st n).toBlock) := by
  rw [h.toBlock_succ n]
  obtain ⟨hcmd, hwcur, hbuf⟩ | ⟨x, hcmd⟩ := runCommand_ring c hn (st n).toBlock
  · exact .inl ⟨ticksBefore_succ_other hcmd, hwcur, hbuf⟩
  · rw [hcmd]
    exact .inr ⟨x, rfl, ticksBefore_succ_tick (by rw [hcmd]; rfl), rfl, rfl⟩

/-! ### What a slot holds -/

/-- After `n` commands slot `j` holds what the `k`-th most recent tick wrote, or, where fewer than `k`
have run, what it held at the start. -/
def SlotHistory (c : Config) (cmds : Nat → Instr) (st : Nat → State) (n k : Nat) (j : Slot) : Prop :=
  (k ≤ ticksBefore cmds n → ∃ m x, m < n ∧ cmds m = .tick x ∧
    ticksBefore cmds m + k = ticksBefore cmds n ∧
    memRead (st n).buf j = tickWritten c x (st m).toBlock) ∧
  (ticksBefore cmds n < k → memRead (st n).buf j = memRead (st 0).buf j)

section
variable {c : Config} {cmds : Nat → Instr} {st : Nat → State} {n k : Nat} {j : Slot}

/-- A command that leaves slot `j` alone makes the tick that wrote it older by the ticks it counts for:
one or none. -/
theorem SlotHistory.succ {d : Nat} (h : SlotHistory c cmds st n k j)
    (hticks : ticksBefore cmds (n + 1) = ticksBefore cmds n + d)
    (hslot : memRead (st (n + 1)).buf j = memRead (st n).buf j) :
    SlotHistory c cmds st (n + 1) (k + d) j := by
  obtain ⟨hwritten, hkept⟩ := h
  constructor
  · intro hle
    obtain ⟨m, x, hm, hcmd, hcount, hval⟩ := hwritten (by omega)
    exact ⟨m, x, by omega, hcmd, by omega, hslot.trans hval⟩
  · intro hlt
    exact hslot.trans (hkept (by omega))

/-- The slot a tick has just written. -/
theorem SlotHistory.of_tick {x : Sample} (hcmd : cmds n = .tick x)
    (hticks : ticksBefore cmds (n + 1) = ticksBefore cmds n + 1)
    (hslot : memRead (st (n + 1)).buf j = tickWritten c x (st n).toBlock) :
    SlotHistory c cmds st (n + 1) 1 j :=
  ⟨fun _ => ⟨n, x, Nat.lt_succ_self n, hcmd, hticks.symm, hslot⟩, fun hlt => by omega⟩

/-- R46 along a run: a tick writes the slot that is 1 behind the cursor after it, and the slots it
leaves alone are each one further behind. -/
theorem Execution.slotHistory (h : Execution c cmds st) (hcmds : ∀ t, cmds t ≠ .reset)
    (hpos : 1 ≤ k) (hle : k ≤ 4096) :
    SlotHistory c cmds st n k (slotBehind (st n).wcur k) := by
  induction n generalizing k with
  | zero => exact ⟨fun hk => absurd (hpos.trans hk) (Nat.not_succ_le_zero 0), fun _ => rfl⟩
  | succ n ih =>
    obtain ⟨hticks, hwcur, hbuf⟩ | ⟨x, hcmd, hticks, hwcur, hbuf⟩ := h.ring_succ (hcmds n)
    · rw [hwcur]
      exact (ih hpos hle).succ (d := 0) hticks (by rw [hbuf])
    · obtain ⟨k, rfl⟩ := Nat.exists_eq_add_of_le' hpos
      rw [hwcur, slotBehind_succ]
      obtain rfl | hk := Nat.eq_zero_or_pos k
      · exact .of_tick hcmd hticks (by rw [hbuf, slotBehind_zero, memRead_memWrite_self])
      · have hother := slotBehind_ne_cursor (st n).wcur hk hle
        exact (ih hk (by omega)).succ hticks (by rw [hbuf, memRead_memWrite_other hother])

end

theorem step_rst {s : State} {rest : List PortEvent} (h : s.inbox = .rst :: rest) :
    step s = .next (resetPin hw { s with inbox := rest }) := by
  rw [step_eq_stepWith, stepWith_rst h]

/-- Settles O43: a power-on lists `BUF_INIT`, both resets keep the buffer, a command that changes it is
a tick, and along a run without `RESET` every slot has its history. -/
theorem slotHoldsTheTickThatWroteIt : Obligations.SlotHoldsTheTickThatWroteIt :=
  ⟨fun init j => by rw [powerOn_buf, memRead_bufOf],
    fun s => ⟨_, exec_reset s, rfl, fun _ h => ⟨_, step_rst h, rfl⟩⟩,
    fun _ _ _ => exec_changes_buf,
    fun _ _ _ hrun hcmds _ _ hpos hle => hrun.slotHistory hcmds hpos hle⟩

end Sys2Proof.Machine
end

section
/-! PROOFS. The decoder against the opcode map (30_encoding.md R65): what a row's mask and match say
of R63's fields, and the words that decode to each command. -/

namespace Sys2Proof

/-! ### A row's mask and match -/

/-- A mask that keeps the bits from `lo` up. -/
theorem getLsbD_and_mask (w : Word) (lo k : Nat) :
    (w &&& BitVec.allOnes 32 <<< lo).getLsbD k = (decide (lo ≤ k) && w.getLsbD k) := by
  rw [BitVec.getLsbD_and, BitVec.getLsbD_shiftLeft, BitVec.getLsbD_allOnes]
  by_cases hk : k < 32
  · have hsub : k - lo < 32 := by omega
    simp [hk, hsub, ← decide_not, Bool.and_comm]
  · simp [BitVec.getLsbD_of_ge w k (by omega)]

/-- An opcode above zeros. -/
theorem getLsbD_opcode_shiftLeft (op : BitVec 4) (k : Nat) :
    (op.setWidth 32 <<< 28).getLsbD k = (decide (28 ≤ k) && op.getLsbD (k - 28)) := by
  rw [BitVec.getLsbD_shiftLeft, BitVec.getLsbD_setWidth]
  by_cases hk : k < 32
  · have hsub : k - 28 < 32 := by omega
    simp [hk, hsub, ← decide_not]
  · simp [BitVec.getLsbD_of_ge op (k - 28) (by omega)]

/-- Every mask of R65 keeps the bits from some `lo` up, and every match is an opcode above zeros, so
a word matches a row when its opcode is the row's and the payload from `lo` up is zero. -/
theorem and_mask_eq_iff {w mask value : Word} (lo len : Nat) (op : BitVec 4)
    (hlen : lo + len = 28) (hmask : mask = BitVec.allOnes 32 <<< lo)
    (hvalue : value = op.setWidth 32 <<< 28) :
    w &&& mask = value ↔ field 28 4 w = op ∧ field lo len w = 0 := by
  rw [hmask, hvalue]
  constructor
  · intro h
    have hbit (k : Nat) : (decide (lo ≤ k) && w.getLsbD k) =
        (decide (28 ≤ k) && op.getLsbD (k - 28)) := by
      rw [← getLsbD_and_mask, h, getLsbD_opcode_shiftLeft]
    refine ⟨BitVec.eq_of_getLsbD_eq fun k hk => ?opcode,
      BitVec.eq_of_getLsbD_eq fun k hk => ?payload⟩
    case opcode =>
      have hlo : lo ≤ 28 + k := by omega
      simpa [field, hk, hlo] using hbit (28 + k)
    case payload =>
      have hpayload : ¬28 ≤ lo + k := by omega
      simpa [field, hk, hpayload] using hbit (lo + k)
  · rintro ⟨rfl, hzero⟩
    refine BitVec.eq_of_getLsbD_eq fun k hk => ?_
    rw [getLsbD_and_mask, getLsbD_opcode_shiftLeft, field, BitVec.getLsbD_extractLsb']
    obtain hopcode | hpayload := le_or_gt 28 k
    · have hlo : lo ≤ k := by omega
      have hsub : k - 28 < 4 := by omega
      simp [hopcode, hlo, hsub]
    · have hbit : lo ≤ k → w.getLsbD k = false := fun hlo => by
        have hsub : k - lo < len := by omega
        simpa [field, hsub, hlo] using congrArg (BitVec.getLsbD · (k - lo)) hzero
      simpa [Nat.not_le.2 hpayload] using hbit

/-! ### The words of each command -/

/-- The seven rows with their operands, by R63's fields: `decode_cases` and its converse. -/
theorem decode_eq_ok_iff {w : Word} {i : Instr} : decode w = .ok i ↔
    (field 28 4 w = 0 ∧ field 0 28 w = 0 ∧ i = .nop) ∨
    (field 28 4 w = 1 ∧ field 16 12 w = 0 ∧ i = .tick (field 0 16 w)) ∨
    (field 28 4 w = 2 ∧ i = .ctrl (field 14 14 w) (field 0 14 w)) ∨
    (field 28 4 w = 3 ∧ field 1 27 w = 0 ∧ i = .trig (w.getLsbD 0)) ∨
    (field 28 4 w = 4 ∧ field 4 24 w = 0 ∧
      i = .mode (modeOperand (w.getLsbD 0) (w.getLsbD 2))
        (modeOperand (w.getLsbD 1) (w.getLsbD 3))) ∨
    (field 28 4 w = 5 ∧ field 4 24 w = 0 ∧ (field 0 4 w).toNat ≤ 9 ∧ i = .rdreg (field 0 4 w)) ∨
    (field 28 4 w = 15 ∧ field 0 28 w = 0 ∧ i = .reset) := by
  refine ⟨decode_cases, ?_⟩
  rintro (⟨hop, hzero, rfl⟩ | ⟨hop, hzero, rfl⟩ | ⟨hop, rfl⟩ | ⟨hop, hzero, rfl⟩ |
    ⟨hop, hzero, rfl⟩ | ⟨hop, hzero, hrn, rfl⟩ | ⟨hop, hzero, rfl⟩)
  case inr.inr.inl => simp [decode, hop]
  case inr.inr.inr.inr.inr.inl => simp [decode, hop, hzero, decodeRdreg, hrn]
  all_goals simp [decode, hop, hzero, ifZero]

theorem nop_row_iff (w : Word) : w &&& 0xFFFFFFFF = 0x00000000 ↔ decode w = .ok .nop := by
  rw [and_mask_eq_iff 0 28 0 rfl (by decide) (by decide)]
  simp [decode_eq_ok_iff]

theorem tick_row_iff (w : Word) :
    w &&& 0xFFFF0000 = 0x10000000 ↔ decode w = .ok (.tick (field 0 16 w)) := by
  rw [and_mask_eq_iff 16 12 1 rfl (by decide) (by decide)]
  simp [decode_eq_ok_iff]

theorem ctrl_row_iff (w : Word) :
    w &&& 0xF0000000 = 0x20000000 ↔ decode w = .ok (.ctrl (field 14 14 w) (field 0 14 w)) := by
  rw [and_mask_eq_iff 28 0 2 rfl (by decide) (by decide)]
  simp [decode_eq_ok_iff, BitVec.of_length_zero]

theorem trig_row_iff (w : Word) :
    w &&& 0xFFFFFFFE = 0x30000000 ↔ decode w = .ok (.trig (w.getLsbD 0)) := by
  rw [and_mask_eq_iff 1 27 3 rfl (by decide) (by decide)]
  simp [decode_eq_ok_iff]

theorem mode_row_iff (w : Word) : w &&& 0xFFFFFFF0 = 0x40000000 ↔
    decode w = .ok (.mode (modeOperand (w.getLsbD 0) (w.getLsbD 2))
      (modeOperand (w.getLsbD 1) (w.getLsbD 3))) := by
  rw [and_mask_eq_iff 4 24 4 rfl (by decide) (by decide)]
  simp [decode_eq_ok_iff]

theorem rdreg_row_iff (w : Word) : w &&& 0xFFFFFFF0 = 0x50000000 ∧ (field 0 4 w).toNat ≤ 9 ↔
    decode w = .ok (.rdreg (field 0 4 w)) := by
  rw [and_mask_eq_iff 4 24 5 rfl (by decide) (by decide)]
  simp [decode_eq_ok_iff, and_assoc]

theorem reset_row_iff (w : Word) : w &&& 0xFFFFFFFF = 0xF0000000 ↔ decode w = .ok .reset := by
  rw [and_mask_eq_iff 0 28 15 rfl (by decide) (by decide)]
  simp [decode_eq_ok_iff]

/-- A word is illegal exactly when it decodes to none of the commands that its own fields name. -/
theorem decode_error_iff (w : Word) :
    (decode w ≠ .ok .nop ∧ decode w ≠ .ok (.tick (field 0 16 w)) ∧
      decode w ≠ .ok (.ctrl (field 14 14 w) (field 0 14 w)) ∧
      decode w ≠ .ok (.trig (w.getLsbD 0)) ∧
      decode w ≠ .ok (.mode (modeOperand (w.getLsbD 0) (w.getLsbD 2))
        (modeOperand (w.getLsbD 1) (w.getLsbD 3))) ∧
      decode w ≠ .ok (.rdreg (field 0 4 w)) ∧ decode w ≠ .ok .reset) ↔
    ∃ e, decode w = .error e := by
  cases hw : decode w with
  | error e => simp
  | ok i =>
    obtain ⟨-, -, rfl⟩ | ⟨-, -, rfl⟩ | ⟨-, rfl⟩ | ⟨-, -, rfl⟩ | ⟨-, -, rfl⟩ | ⟨-, -, -, rfl⟩ |
      ⟨-, -, rfl⟩ := decode_cases hw
    all_goals simp

/-- Settles O2: each row is an equivalence, and a word in no row is illegal because the seven
commands its fields name are all it could decode to. -/
theorem decodeFollowsOpcodeMap : Obligations.DecodeFollowsOpcodeMap := by
  intro w
  refine ⟨nop_row_iff w, tick_row_iff w, ctrl_row_iff w, trig_row_iff w, mode_row_iff w,
    rdreg_row_iff w, reset_row_iff w, ?illegal⟩
  exact ((nop_row_iff w).not.and <| (tick_row_iff w).not.and <| (ctrl_row_iff w).not.and <|
    (trig_row_iff w).not.and <| (mode_row_iff w).not.and <| (rdreg_row_iff w).not.and
      (reset_row_iff w).not).trans (decode_error_iff w)

end Sys2Proof
end

section
/-! PROOFS. The control mapper (40_control_mapper_and_ramp.md sections 2 and 3): the clamped sum,
its inverse, the table and the transfer function, the scaled target, and `CTRL`. -/

namespace Sys2Proof.Machine

/-! ### A clamp at its ends -/

theorem clamp_of_le {v lo hi : Int} (h : lo ≤ hi) (hv : v ≤ lo) : clamp v lo hi = lo := by
  unfold clamp
  split_ifs <;> omega

theorem clamp_of_ge {v lo hi : Int} (h : lo ≤ hi) (hv : hi ≤ v) : clamp v lo hi = hi := by
  unfold clamp
  split_ifs <;> omega

/-! ### The controls (R81, R82) -/

theorem combine_toNat (cv knob : Control) :
    ((combine cv knob).toNat : Int) = clamp (cv.toInt + knob.toInt) 0 4095 := by
  have hlo : 0 ≤ clamp (cv.toInt + knob.toInt) 0 4095 := clamp_lower (by decide)
  have hhi : clamp (cv.toInt + knob.toInt) 0 4095 ≤ 4095 := clamp_upper (by decide)
  exact toNat_ofInt_of_fits hlo (lt_of_le_of_lt hhi (by decide))

theorem invert_toNat (u : BitVec 12) : ((invert u).toNat : Int) = 4095 - u.toNat := by
  have hu := u.isLt
  exact toNat_ofInt_of_fits (v := 4095 - u.toNat) (by omega) (by omega)

@[simp] theorem invert_invert (u : BitVec 12) : invert (invert u) = u := by
  have houter := invert_toNat (invert u)
  have hinner := invert_toNat u
  exact BitVec.eq_of_toNat_eq (by omega)

/-- Settles O23: the clamped sum fits 12 bits, and each control's value fits 14. -/
theorem combineSaturatesTheSum : Obligations.CombineSaturatesTheSum := by
  intro cv knob
  have hcv := control_range cv
  have hknob := control_range knob
  exact ⟨combine_toNat cv knob, by omega, by omega⟩

/-- Settles O24: `4095 - u` fits 12 bits, and `invert` is its own inverse. -/
theorem invertIsExact : Obligations.InvertIsExact :=
  ⟨invert_toNat, fun v => ⟨invert v, invert_invert v⟩⟩

/-! ### The table (R83) -/

theorem two_pow_octave (i : Nat) : (2 : Int) ^ (544 + i) = 131072 ^ 32 * 2 ^ i := by
  rw [pow_add, show (544 : Nat) = 17 * 32 from rfl, pow_mul]
  norm_num

/-- Entry `i` is less than half a unit from `65536 * 2^(i/32)`: twice each side, to the 32nd
power. -/
theorem lutAt_hw_nearest : ∀ i : Nat, i ≤ 32 →
    (2 * lutAt hw i - 1) ^ 32 < 131072 ^ 32 * 2 ^ i ∧
    131072 ^ 32 * 2 ^ i < (2 * lutAt hw i + 1) ^ 32 := by
  decide

/-- Settles O57: the list is R83's, and each entry is held to the 32nd power it is nearest to and to
its neighbour. -/
theorem expoTableHoldsItsEntries : Obligations.ExpoTableHoldsItsEntries := by
  refine ⟨rfl, fun i hi => ?_, by decide⟩
  rw [two_pow_octave]
  exact lutAt_hw_nearest i hi

/-- What the transfer function needs of two neighbouring entries: they lie in the octave, their
difference is at most 2809, and the last of the 16 readings between them is at most 130896. -/
theorem lutAt_hw_neighbours : ∀ i : Nat, i < 32 →
    65536 ≤ lutAt hw i ∧ 0 < lutAt hw (i + 1) - lutAt hw i ∧
    lutAt hw (i + 1) - lutAt hw i ≤ 2809 ∧
    16 * lutAt hw i + 15 * (lutAt hw (i + 1) - lutAt hw i) < 16 * 130897 := by
  decide

/-! ### The transfer function (R84) -/

/-- `mant` of R84, from `v` as an integer. -/
theorem mantissa_eq (c : Config) (v : BitVec 12) :
    mantissa c v = lutAt c (v.toNat / 16 % 32) +
      (lutAt c (v.toNat / 16 % 32 + 1) - lutAt c (v.toNat / 16 % 32)) *
        (v.toNat % 16 : Nat) / 16 := by
  simp only [mantissa, asr_four, BitVec.extractLsb'_toNat, Nat.shiftRight_eq_div_pow]
  simp

theorem expo_eq (c : Config) (v : BitVec 12) :
    expo c v = mantissa c v / 2 ^ (8 - v.toNat / 512) := by
  have hv := v.isLt
  have hoct : (v.extractLsb' 9 3).toNat = v.toNat / 512 := by
    rw [BitVec.extractLsb'_toNat, Nat.shiftRight_eq_div_pow]
    omega
  rw [expo, asr, hoct]

theorem mantissa_hw_range (v : BitVec 12) : 65536 ≤ mantissa hw v ∧ mantissa hw v ≤ 130896 := by
  obtain ⟨hlut, hrise, hdiff, hlast⟩ :=
    lutAt_hw_neighbours (v.toNat / 16 % 32) (Nat.mod_lt _ (by decide))
  have hfr : v.toNat % 16 < 16 := Nat.mod_lt _ (by decide)
  rw [mantissa_eq]
  generalize lutAt hw (v.toNat / 16 % 32) = low at *
  generalize lutAt hw (v.toNat / 16 % 32 + 1) - low = diff at *
  generalize v.toNat % 16 = fr at *
  have hlo : 0 ≤ diff * (fr : Int) := by positivity
  have hhi : diff * (fr : Int) ≤ diff * 15 := by gcongr; omega
  omega

/-- The shift is by 1 to 8 places. -/
theorem expo_hw_range (v : BitVec 12) : 256 ≤ expo hw v ∧ expo hw v ≤ 65448 := by
  obtain ⟨hlo, hhi⟩ := mantissa_hw_range v
  have hv := v.isLt
  have hshift : 1 ≤ 8 - v.toNat / 512 ∧ 8 - v.toNat / 512 ≤ 8 := by omega
  rw [expo_eq]
  generalize 8 - v.toNat / 512 = k at hshift ⊢
  obtain ⟨hk1, hk8⟩ := hshift
  interval_cases k <;> omega

theorem expo_hw_zero : expo hw 0 = 256 := by decide

theorem expo_hw_max : expo hw 4095 = 65448 := by decide

/-- Settles O25: the fields of `v` are its quotients, the bounds follow from those of neighbouring
entries, and the four values are evaluated. -/
theorem expoFollowsTheTable : Obligations.ExpoFollowsTheTable := by
  refine ⟨fun v => ?_, expo_hw_zero, by decide, by decide, expo_hw_max⟩
  obtain ⟨-, hrise, hdiff, -⟩ :=
    lutAt_hw_neighbours (v.toNat / 16 % 32) (Nat.mod_lt _ (by decide))
  obtain ⟨hlo, hhi⟩ := mantissa_hw_range v
  obtain ⟨hexpoLo, hexpoHi⟩ := expo_hw_range v
  dsimp only
  rw [← mantissa_eq]
  exact ⟨expo_eq hw v, hlo, by omega, hrise, hdiff, hexpoLo, hexpoHi⟩

/-! ### The mapped target (R85) -/

theorem mapTarget_toNat (c : Config) (cv knob : Control) :
    ((mapTarget c cv knob).toNat : Int) =
      clamp (expo c (invert (combine cv knob)) * c.timeScale.toNat / 65536) 16 65519 :=
  scaleTarget_toNat c _

/-- Settles O26: the mapper clamps whatever the parameters, `expo` does not read `TIME_SCALE`, and
its bounds scaled by 61440 lie in the range. -/
theorem mappedTargetStaysInRange : Obligations.MappedTargetStaysInRange := by
  refine ⟨fun scale cv knob => ⟨mapTarget_toNat _ cv knob, mapTarget_inRange _ cv knob⟩,
    fun v => ?_⟩
  obtain ⟨hlo, hhi⟩ := expo_hw_range v
  omega

/-! ### `CTRL` (R86) -/

/-- The mapper of this hardware on the clamped sum of the controls. -/
theorem mapTarget_hw_toNat (cv knob : Control) :
    ((mapTarget hw cv knob).toNat : Int) = clamp
      (expo hw (BitVec.ofInt 12 (4095 - clamp (cv.toInt + knob.toInt) 0 4095)) * 61440 / 65536)
      16 65519 := by
  rw [← combine_toNat]
  exact mapTarget_toNat hw cv knob

/-- The lower end of the controls' sum: `expo` is read at 4095. -/
theorem mapTarget_hw_of_nonpos {cv knob : Control} (h : cv.toInt + knob.toInt ≤ 0) :
    (mapTarget hw cv knob).toNat = 61357 := by
  have hval := mapTarget_hw_toNat cv knob
  rw [clamp_of_le (by decide) h, show BitVec.ofInt 12 (4095 - 0) = 4095 from rfl, expo_hw_max,
    clamp_eq_self (by decide) (by decide)] at hval
  omega

/-- The upper end: `expo` is read at 0. -/
theorem mapTarget_hw_of_ge {cv knob : Control} (h : 4095 ≤ cv.toInt + knob.toInt) :
    (mapTarget hw cv knob).toNat = 240 := by
  have hval := mapTarget_hw_toNat cv knob
  rw [clamp_of_ge (by decide) h, show BitVec.ofInt 12 (4095 - 4095) = 0 from rfl, expo_hw_zero,
    clamp_eq_self (by decide) (by decide)] at hval
  omega

/-- Settles O13: `CTRL` writes the mapped target, at the two ends of the sum `expo` is at 4095 and
at 0, and the word's row is a `CTRL`. -/
theorem ctrlWritesMappedTarget : Obligations.CtrlWritesMappedTarget :=
  ⟨fun s cv knob => ⟨mapTarget hw cv knob, exec_ctrl cv knob s, mapTarget_hw_toNat cv knob,
    mapTarget_hw_of_nonpos, mapTarget_hw_of_ge⟩, fun w => (ctrl_row_iff w).1⟩

end Sys2Proof.Machine
end

section
/-! PROOFS. The delay-time ramp (40_control_mapper_and_ramp.md section 4): one step, the distance it
leaves, and `ACTIVE` along a run that writes no target. -/

namespace Sys2Proof.Machine

/-! ### One step (R88) -/

/-- The ramp's destination lies in `LEN_MIN .. LEN_MAX`. -/
theorem clamp_len_range (v : Int) : 16 ≤ clamp v 16 65519 ∧ clamp v 16 65519 ≤ 65519 :=
  ⟨clamp_lower (by decide), clamp_upper (by decide)⟩

/-- A length in range is its own destination. -/
theorem clamp_len_of_inRange {l : Length} (h : InRange l) : clamp l.toNat 16 65519 = l.toNat :=
  clamp_eq_self h.1 h.2

/-- The distance from a length to the destination of the ramp, `abs(d)` in R88. -/
def rampDist (active target : Length) : Nat := (clamp target.toNat 16 65519 - active.toNat).natAbs

theorem rampDist_eq_zero_iff {active target : Length} :
    rampDist active target = 0 ↔ (active.toNat : Int) = clamp target.toNat 16 65519 := by
  unfold rampDist
  omega

/-- Both distances are within the range, 65503 wide. -/
theorem rampDist_le {active : Length} (h : InRange active) (target : Length) :
    rampDist active target ≤ 65503 := by
  have hdest := clamp_len_range target.toNat
  rw [inRange_iff] at h
  unfold rampDist
  omega

section
variable (active target inc : Length)

/-- R88's three arms. -/
theorem rampStep_arms :
    (rampDist active target < inc.toNat →
      ((rampStep active target inc).toNat : Int) = clamp target.toNat 16 65519) ∧
    (inc.toNat ≤ rampDist active target → 0 < clamp target.toNat 16 65519 - active.toNat →
      ((rampStep active target inc).toNat : Int) = active.toNat + inc.toNat) ∧
    (inc.toNat ≤ rampDist active target → clamp target.toNat 16 65519 - active.toNat ≤ 0 →
      ((rampStep active target inc).toNat : Int) = active.toNat - inc.toNat) := by
  obtain ⟨dest, hdest, harms⟩ := rampStep_cases active target inc
  have hclamp : clamp target.toNat 16 65519 = dest := hdest.symm
  simp only [rampDist, hclamp]
  omega

/-- No overshoot: the step ends between the length it starts at and the destination (R89 (a)). -/
theorem rampStep_between :
    (active.toNat ≤ ((rampStep active target inc).toNat : Int) ∧
      ((rampStep active target inc).toNat : Int) ≤ clamp target.toNat 16 65519) ∨
    (clamp target.toNat 16 65519 ≤ (rampStep active target inc).toNat ∧
      ((rampStep active target inc).toNat : Int) ≤ active.toNat) := by
  obtain ⟨hnear, hup, hdown⟩ := rampStep_arms active target inc
  unfold rampDist at hnear hup hdown
  omega

/-- The step is bounded (R89 (b)). -/
theorem rampStep_moves_le :
    ((rampStep active target inc).toNat - active.toNat : Int).natAbs ≤ inc.toNat := by
  obtain ⟨hnear, hup, hdown⟩ := rampStep_arms active target inc
  unfold rampDist at hnear hup hdown
  omega

/-- A step takes one increment off the distance, or what is left of it. -/
theorem rampDist_rampStep :
    rampDist (rampStep active target inc) target = rampDist active target - inc.toNat := by
  obtain ⟨hnear, hup, hdown⟩ := rampStep_arms active target inc
  unfold rampDist at *
  omega

end

/-- Settles O28: the arms as they stand, the two overlaps where both sides of an arm's test give the
destination, the range, and `ACTIVE` after a tick. -/
theorem rampStepFollowsTheRule : Obligations.RampStepFollowsTheRule := by
  refine ⟨fun active target inc => ?_, fun s x => ⟨_, exec_tick x s, rfl⟩⟩
  obtain ⟨hnear, hup, hdown⟩ := rampStep_arms active target inc
  refine ⟨hnear, hup, hdown, fun hinc => ?increment, fun hzero => ?arrived, fun hactive => ?range⟩
  case increment =>
    have hdist := rampDist_rampStep active target inc
    exact rampDist_eq_zero_iff.1 (by rw [hdist, rampDist, hinc, Nat.sub_self])
  case arrived =>
    have hbetween := rampStep_between active target inc
    omega
  case range =>
    have hdist := rampDist_le hactive target
    unfold rampDist at hdist
    exact ⟨by omega, by omega, rampStep_inRange hactive target inc⟩

/-! ### Many steps (R89) -/

/-- `ACTIVE` after `n` ticks that began with `active` and found one target and one increment. -/
def rampAfter (target inc : Length) (n : Nat) (active : Length) : Length :=
  (fun l => rampStep l target inc)^[n] active

theorem rampAfter_succ (target inc : Length) (n : Nat) (active : Length) :
    rampAfter target inc (n + 1) active = rampStep (rampAfter target inc n active) target inc :=
  Function.iterate_succ_apply' _ n active

theorem rampDist_rampAfter (active target inc : Length) (n : Nat) :
    rampDist (rampAfter target inc n active) target = rampDist active target - n * inc.toNat := by
  induction n with
  | zero => rw [Nat.zero_mul, Nat.sub_zero]; rfl
  | succ n ih => rw [rampAfter_succ, rampDist_rampStep, ih, Nat.sub_sub, Nat.succ_mul]

theorem rampAfter_inRange {active : Length} (h : InRange active) (target inc : Length) (n : Nat) :
    InRange (rampAfter target inc n active) := by
  induction n with
  | zero => exact h
  | succ n ih => rw [rampAfter_succ]; exact rampStep_inRange ih target inc

/-- The exact number of ticks to converge (R89 (c)). -/
theorem rampAfter_arrived_iff {inc : Length} (hinc : 1 ≤ inc.toNat) (active target : Length)
    (n : Nat) : ((rampAfter target inc n active).toNat : Int) = clamp target.toNat 16 65519 ↔
      (rampDist active target + inc.toNat - 1) / inc.toNat ≤ n := by
  rw [← rampDist_eq_zero_iff, rampDist_rampAfter, Nat.sub_eq_zero_iff_le, Nat.mul_comm,
    ← Nat.ceilDiv_eq_add_pred_div, ceilDiv_le_iff_le_mul hinc]

/-! ### The ramp along a run -/

/-- A command that writes no target leaves `TARGET` and `RAMPINC` alone and runs the ramp once if it
is a tick. -/
theorem runCommand_ramp (c : Config) {i : Instr} (hi : writesTarget i = false) (b : Block) :
    (runCommand c i b).1.target = b.target ∧ (runCommand c i b).1.rampinc = b.rampinc ∧
    (runCommand c i b).1.active =
      rampAfter b.target b.rampinc (if isTick i then 1 else 0) b.active := by
  cases i with
  | ctrl cv knob => exact nomatch hi
  | reset => exact nomatch hi
  | rdreg rn =>
    have hblock := runRdreg_block rn b
    exact ⟨congrArg Block.target hblock, congrArg Block.rampinc hblock,
      congrArg Block.active hblock⟩
  | _ => exact ⟨rfl, rfl, rfl⟩

/-- Along a run that writes no target, `ACTIVE` is the ramp run once per tick. -/
theorem Execution.ramp {c : Config} {cmds : Nat → Instr} {st : Nat → State}
    (h : Execution c cmds st) (hcmds : ∀ t, writesTarget (cmds t) = false) (t : Nat) :
    (st t).target = (st 0).target ∧ (st t).rampinc = (st 0).rampinc ∧
    (st t).active =
      rampAfter (st 0).target (st 0).rampinc (ticksBefore cmds t) (st 0).active := by
  induction t with
  | zero => exact ⟨rfl, rfl, rfl⟩
  | succ t ih =>
    obtain ⟨htarget, hrampinc, hactive⟩ := ih
    obtain ⟨htarget', hrampinc', hactive'⟩ := runCommand_ramp c (hcmds t) (st t).toBlock
    rw [h.toBlock_succ]
    refine ⟨htarget'.trans htarget, hrampinc'.trans hrampinc, ?_⟩
    rw [hactive', htarget, hrampinc, hactive, ticksBefore, Nat.add_comm, rampAfter, rampAfter,
      rampAfter, Function.iterate_add_apply]

/-- After a reset the destination is 16 and `ACTIVE` walks down from 32768 by 4 a tick (R89 (e)). -/
theorem rampAfter_reset (n : Nat) :
    (n ≤ 8188 → (rampAfter 0 4 n 32768).toNat = 32768 - 4 * n) ∧
    (8188 ≤ n → (rampAfter 0 4 n 32768).toNat = 16) := by
  have hdist := rampDist_rampAfter 32768 0 4 n
  rw [show rampDist 32768 0 = 32752 from rfl, show (4 : Length).toNat = 4 from rfl, rampDist,
    show clamp (0 : Length).toNat 16 65519 = 16 from rfl] at hdist
  obtain ⟨hlo, -⟩ := inRange_iff.1 (rampAfter_inRange (by decide : InRange 32768) 0 4 n)
  omega

/-- Settles O29: one step takes one increment off the distance without overshoot, and a run that
writes no target is the ramp run once per tick. -/
theorem rampConvergesWithoutOvershoot : Obligations.RampConvergesWithoutOvershoot := by
  refine ⟨fun active target inc => ?ramp, fun s x => ⟨_, exec_tick x s, ?tick⟩,
    fun c cmds st hrun hcmds hinc t => ?run, fun cv knob s => ⟨_, exec_ctrl cv knob s, ?ctrl⟩,
    fun b cmds st hstart hrun hcmds t => ?walk⟩
  case ramp =>
    refine ⟨rampStep_between active target inc, rampStep_moves_le active target inc,
      fun hinc => rampAfter_arrived_iff hinc active target, fun hactive => ?_, clamp_len_of_inRange⟩
    have hdist := rampDist_le hactive target
    unfold rampDist at hdist
    omega
  case tick =>
    have hbetween := rampStep_between s.active s.target s.rampinc
    exact ⟨hbetween.imp_right (And.imp_right Int.ofNat_le.1), rampStep_moves_le _ _ _⟩
  case run =>
    obtain ⟨-, -, hactive⟩ := hrun.ramp hcmds t
    rw [hactive]
    exact rampAfter_arrived_iff hinc _ _ _
  case ctrl => exact clamp_len_of_inRange (mapTarget_inRange hw cv knob)
  case walk =>
    obtain ⟨-, -, hactive⟩ := hrun.ramp hcmds t
    rw [hactive, hstart]
    exact rampAfter_reset _

end Sys2Proof.Machine
end

section
/-! PROOFS. The delay line of one tick (41_delay_line.md R101 to R106): the length it reads at, the
two slots and the read position, the interpolation, the feedback mixer, and the one slot it writes. -/

namespace Sys2Proof.Machine

/-! ### The write (R106) -/

/-- Settles O19: the buffer after a tick is one write at the cursor, and the cursor is 12 bits
wide. -/
theorem tickWritesOneSlot : Obligations.TickWritesOneSlot := fun s x =>
  ⟨_, exec_tick x s, memRead_memWrite_self _ _ _, fun _ hj => memRead_memWrite_other hj _ _,
    BitVec.toNat_add s.wcur 1⟩

/-! ### The length (R101) -/

theorem tickAct_iff (b : Block) : tickAct b = true ↔ b.bcnt ≠ 0 := burstAct_iff b.bcnt

/-- The tick reads at the ramp's result unless the window is open and `DLYMOD` is set. -/
theorem tickLen_unperturbed {c : Config} {b : Block} (h : ¬(b.bcnt ≠ 0 ∧ b.dlymod = true)) :
    tickLen c b = tickActive b :=
  perturbLen_off _ (by rwa [← tickAct_iff, ← Bool.and_eq_true, Bool.not_eq_true] at h)

theorem tickLen_perturbed {c : Config} {b : Block} (hopen : b.bcnt ≠ 0) (hdly : b.dlymod = true) :
    tickLen c b = perturbLen (tickActive b) true true (lfsrAdvance c b.lfsr) := by
  rw [tickLen, (tickAct_iff b).2 hopen, hdly, tickReg, burstReg_open hopen]

/-- Settles O30: the two cases of the perturbation, each of which keeps a length in range. -/
theorem effectiveLengthStaysInRange : Obligations.EffectiveLengthStaysInRange := by
  refine fun c b => ⟨tickLen_unperturbed, tickLen_perturbed, fun ⟨hactive, _⟩ => ?_⟩
  obtain ⟨hlo, hhi⟩ := inRange_iff.1 (tickLen_inRange c hactive)
  omega

/-! ### The read position (R102) -/

theorem readPos_toNat (w : Slot) (l : Length) :
    ((readPos w l).toNat : Int) = (16 * w.toNat - l.toNat) % 65536 := by
  rw [readPos, BitVec.toNat_ofInt, Int.toNat_of_nonneg (Int.emod_nonneg _ (by decide)),
    Int.mul_comm]
  rfl

theorem readPos_whole (w : Slot) {l : Length} (h : l.toNat % 16 = 0) :
    (readPos w l).toNat / 16 = (slotA w l).toNat := by
  have hpos := readPos_toNat w l
  have hslot := slotA_toNat w l
  omega

theorem readPos_fraction (w : Slot) {l : Length} (h : l.toNat % 16 ≠ 0) :
    (readPos w l).toNat / 16 = (slotB w l).toNat ∧
    (readPos w l).toNat % 16 = 16 - l.toNat % 16 := by
  have hpos := readPos_toNat w l
  have hslot := slotB_toNat w l
  omega

/-- The output of a tick is the interpolation of the two slots its length names. -/
theorem tickOut_eq (c : Config) (b : Block) :
    tickOut c b = interp (memRead b.buf (slotA b.wcur (tickLen c b)))
      (memRead b.buf (slotB b.wcur (tickLen c b))) ((tickLen c b).toNat % 16) := by
  rw [tickOut, readInterp, lenFrac_eq]

/-- Settles O31: the slots and the position as residues of one difference, and what a tick does with
them. -/
theorem readPositionFollowsTheRule : Obligations.ReadPositionFollowsTheRule :=
  ⟨fun w l => ⟨slotA_toNat w l, slotB_toNat w l, readPos_toNat w l, readPos_whole w,
    readPos_fraction w⟩, fun s x => ⟨_, exec_tick x s, rfl, tickOut_eq hw s.toBlock⟩⟩

/-! ### The slots read (R103) -/

/-- At 16, one sample, the read is just behind the cursor. -/
theorem slotA_shortest (w : Slot) : slotA w 16 = w - 1 := by
  have hslot := slotA_toNat w 16
  rw [show (16 : Length).toNat = 16 from rfl] at hslot
  bv_omega

/-- At 65519, 4094 samples and 15 sixteenths, the read reaches round to just ahead of the cursor. -/
theorem slotB_longest (w : Slot) : slotB w 65519 = w + 1 := by
  have hslot := slotB_toNat w 65519
  rw [show (65519 : Length).toNat = 65519 from rfl] at hslot
  bv_omega

/-- Settles O32: 1 to 4095 slots back is never the cursor, and a tick of a block in service reads at
a length in range. -/
theorem readNeverTouchesCursorSlot : Obligations.ReadNeverTouchesCursorSlot := by
  refine ⟨fun w l hl => ⟨slotA_ne_cursor w hl, slotB_ne_cursor w hl⟩,
    fun w => ⟨slotA_shortest w, slotB_longest w⟩, fun c b ⟨hactive, _⟩ => ?_⟩
  have hlen := tickLen_inRange c hactive
  exact ⟨slotA_ne_cursor _ hlen, slotB_ne_cursor _ hlen⟩

/-! ### The interpolation (R104) -/

/-- A fraction `g / m` of an integer, rounded down, lies between 0 and the integer. -/
theorem mul_ediv_between (v : Int) {g m : Nat} (h : g < m) :
    (0 ≤ v * g / m ∧ v * g / m ≤ v) ∨ (v ≤ v * g / m ∧ v * g / m ≤ 0) := by
  have hm : (0 : Int) < m := by omega
  have hg : (0 : Int) ≤ g := by omega
  have hgm : (g : Int) ≤ m := by omega
  obtain hv | hv := le_total 0 v
  · exact .inl ⟨Int.ediv_nonneg (mul_nonneg hv hg) hm.le,
      Int.ediv_le_of_le_mul hm (mul_le_mul_of_nonneg_left hgm hv)⟩
  · exact .inr ⟨Int.le_ediv_of_mul_le hm (mul_le_mul_of_nonpos_left hgm hv),
      Int.ediv_nonpos_of_nonpos_of_neg (mul_nonpos_of_nonpos_of_nonneg hv hg) hm⟩

/-- The interpolated value before it is narrowed lies between the two samples. -/
theorem interpolated_between (a b : Sample) {fr : Nat} (h : fr < 16) :
    (a.toInt ≤ a.toInt + (b.toInt - a.toInt) * fr / 16 ∧
      a.toInt + (b.toInt - a.toInt) * fr / 16 ≤ b.toInt) ∨
    (b.toInt ≤ a.toInt + (b.toInt - a.toInt) * fr / 16 ∧
      a.toInt + (b.toInt - a.toInt) * fr / 16 ≤ a.toInt) := by
  have hbetween := mul_ediv_between (b.toInt - a.toInt) h
  rw [Nat.cast_ofNat] at hbetween
  omega

/-- The interpolation is exact: a value between two samples is a sample. -/
theorem interp_toInt (a b : Sample) {fr : Nat} (h : fr < 16) :
    (interp a b fr).toInt = a.toInt + (b.toInt - a.toInt) * fr / 16 := by
  have hbetween := interpolated_between a b h
  have ha := sample_range a
  have hb := sample_range b
  exact toInt_ofInt_of_fits (v := a.toInt + (b.toInt - a.toInt) * fr / 16) (by omega) (by omega)

@[simp] theorem interp_zero (a b : Sample) : interp a b 0 = a :=
  BitVec.eq_of_toInt_eq (by simp [interp_toInt])

/-- Settles O33: the exact value lies between the samples and so needs no saturation, and the three
examples are evaluated. -/
theorem interpolationLiesBetween : Obligations.InterpolationLiesBetween := by
  refine ⟨fun a b fr hfr => ⟨interp_toInt a b hfr, ?between⟩, interp_zero, by decide, by decide,
    by decide⟩
  rw [interp_toInt a b hfr]
  exact interpolated_between a b hfr

/-! ### The feedback mixer (R105) -/

/-- The fed-back part is no larger in size than the sample it comes from, rounded down or not. -/
theorem feedback_natAbs_le (y : Sample) (g : BitVec 16) :
    (y.toInt * g.toNat / 65536).natAbs ≤ y.toInt.natAbs := by
  have hbetween := mul_ediv_between y.toInt g.isLt
  rw [Nat.cast_pow, Nat.cast_ofNat] at hbetween
  omega

/-- The floor of a small negative part is -1, however small the gain. -/
theorem fbMix_neg_one {g : BitVec 16} (h : g ≠ 0) : fbMix true 0 (-1) g = -1 := by
  have hpos : g.toNat ≠ 0 := fun hzero => h (BitVec.eq_of_toNat_eq hzero)
  have hlt := g.isLt
  have hfloor : (-1 : Int) * g.toNat / 65536 = -1 := by omega
  refine BitVec.eq_of_toInt_eq ?_
  rw [fbMix_on, asr_sixteen, show (-1 : Sample).toInt = -1 from rfl, hfloor]
  rfl

/-- Settles O34: the saturated sum, the size of its second term, the rule's values, and the write of
a tick read back. -/
theorem feedbackMixSaturates : Obligations.FeedbackMixSaturates :=
  ⟨fun x y g => ⟨fbMix_on x y g, feedback_natAbs_le y g, fbMix_off x y g⟩, fun _ => fbMix_neg_one,
    by decide, by decide, by decide, fun s x => ⟨_, exec_tick x s, memRead_memWrite_self _ _ _⟩⟩

end Sys2Proof.Machine
end

section
/-! PROOFS. Runs of ticks (41_delay_line.md R107, R108): what the slots behind the cursor hold, the
length that stays, the exact delay, and the echoes of an impulse. -/

namespace Sys2Proof.Machine

/-! ### A slot behind the cursor, as one tick reads it -/

theorem slotA_eq_slotBehind (w : Slot) (l : Length) : slotA w l = slotBehind w (l.toNat / 16) := by
  have hslot := slotA_toNat w l
  have hbehind := slotBehind_toNat w (l.toNat / 16)
  exact BitVec.eq_of_toNat_eq (by omega)

theorem slotB_eq_slotBehind (w : Slot) (l : Length) :
    slotB w l = slotBehind w (l.toNat / 16 + 1) := by
  have hslot := slotB_toNat w l
  have hbehind := slotBehind_toNat w (l.toNat / 16 + 1)
  exact BitVec.eq_of_toNat_eq (by omega)

/-- The output of a tick that reads `N + fr/16` samples back. -/
theorem tickOut_of_tickLen {c : Config} {b : Block} {N fr : Nat} (hfr : fr < 16)
    (hlen : (tickLen c b).toNat = 16 * N + fr) :
    tickOut c b = interp (memRead b.buf (slotBehind b.wcur N))
      (memRead b.buf (slotBehind b.wcur (N + 1))) fr := by
  have hint : (tickLen c b).toNat / 16 = N := by omega
  have hfrac : (tickLen c b).toNat % 16 = fr := by omega
  rw [tickOut_eq, slotA_eq_slotBehind, slotB_eq_slotBehind, hint, hfrac]

/-- At a whole length the output is the stored sample. -/
theorem tickOut_of_whole {c : Config} {b : Block} {N : Nat}
    (hlen : (tickLen c b).toNat = 16 * N) :
    tickOut c b = memRead b.buf (slotBehind b.wcur N) := by
  rw [tickOut_of_tickLen (fr := 0) (by decide) hlen, interp_zero]

/-! ### A run of ticks -/

section
variable {c : Config} {x : Nat → Sample} {st : Nat → State}

theorem TickRun.toBlock_succ (h : TickRun c x st) (t : Nat) :
    (st (t + 1)).toBlock = (runTick c (x t) (st t).toBlock).1 :=
  Execution.toBlock_succ h t

/-- In a run of ticks every command counts. -/
theorem ticksBefore_ticks (x : Nat → Sample) (t : Nat) :
    ticksBefore (fun t => .tick (x t)) t = t := by
  induction t with
  | zero => rfl
  | succ t ih => rw [ticksBefore_succ_tick rfl, ih]

theorem TickRun.lastout_succ (h : TickRun c x st) (t : Nat) :
    (st (t + 1)).lastout = tickOut c (st t).toBlock := by
  rw [h.toBlock_succ, runTick_lastout]

theorem TickRun.mode (h : TickRun c x st) (t : Nat) : (st t).mode = (st 0).mode := by
  induction t with
  | zero => rfl
  | succ t ih => rw [h.toBlock_succ, runTick_mode, ih]

theorem TickRun.fbmod (h : TickRun c x st) (t : Nat) : (st t).fbmod = (st 0).fbmod := by
  rw [Block.fbmod, h.mode, Block.fbmod]

theorem TickRun.wcur (h : TickRun c x st) (t : Nat) :
    (st t).wcur.toNat = ((st 0).wcur.toNat + t) % 4096 := by
  induction t with
  | zero => exact (Nat.mod_eq_of_lt (st 0).wcur.isLt).symm
  | succ t ih =>
    have hcursor : ((st t).wcur + 1).toNat = ((st t).wcur.toNat + 1) % 4096 :=
      BitVec.toNat_add _ 1
    rw [h.toBlock_succ, runTick_wcur, hcursor, ih]
    omega

/-- The slot `k` behind the cursor of tick `t`, counted from the cursor of tick 0. -/
theorem TickRun.slotBehind_wcur (h : TickRun c x st) (t k : Nat) :
    slotBehind (st t).wcur k = BitVec.ofInt 12 ((st 0).wcur.toNat + t - k) := by
  have hbehind := slotBehind_toNat (st t).wcur k
  have hcursor := h.wcur t
  refine BitVec.eq_of_toNat_eq ?_
  rw [BitVec.toNat_ofInt]
  omega

/-- The slot `k` behind the cursor holds what was written `k` ticks ago. -/
theorem TickRun.memRead_written (h : TickRun c x st) {t k : Nat} (hpos : 1 ≤ k) (hle : k ≤ 4096)
    (hkt : k ≤ t) : memRead (st t).buf (slotBehind (st t).wcur k) =
      tickWritten c (x (t - k)) (st (t - k)).toBlock := by
  obtain ⟨hwritten, -⟩ := Execution.slotHistory (n := t) h (fun _ => nofun) hpos hle
  simp only [ticksBefore_ticks] at hwritten
  obtain ⟨m, _, -, hcmd, hm, hval⟩ := hwritten hkt
  obtain rfl : m = t - k := by omega
  rw [hval, Instr.tick.inj hcmd]

/-- Before `k` ticks have run it holds what it held at the start. -/
theorem TickRun.memRead_kept (h : TickRun c x st) {t k : Nat} (hle : k ≤ 4096) (htk : t < k) :
    memRead (st t).buf (slotBehind (st t).wcur k) =
      memRead (st 0).buf (BitVec.ofInt 12 ((st 0).wcur.toNat + t - k)) := by
  obtain ⟨-, hkept⟩ := Execution.slotHistory (n := t) h (fun _ => nofun) (by omega) hle
  rw [ticksBefore_ticks] at hkept
  rw [hkept htk, h.slotBehind_wcur]

/-! ### The length that stays (R107) -/

/-- A length settled at the target stays under the ramp, whatever the increment. -/
theorem TickRun.active_settled (h : TickRun c x st) {L : Nat} (hlo : 16 ≤ L) (hhi : L ≤ 65519)
    (hactive : (st 0).active.toNat = L) (htarget : (st 0).target.toNat = L) (t : Nat) :
    (st t).active.toNat = L := by
  have hdest : clamp (st 0).target.toNat 16 65519 = L :=
    htarget ▸ clamp_eq_self (by omega) (by omega)
  have hstart : rampDist (st 0).active (st 0).target = 0 :=
    rampDist_eq_zero_iff.2 (by rw [hdest, hactive])
  obtain ⟨-, -, hramp⟩ := Execution.ramp h (fun _ => rfl) t
  have hdist : rampDist (st t).active (st 0).target = 0 := by
    rw [hramp, rampDist_rampAfter, hstart, Nat.zero_sub]
  rw [rampDist_eq_zero_iff, hdest] at hdist
  exact Int.ofNat_inj.1 hdist

/-- No tick opens a window. -/
theorem TickRun.bcnt_eq_zero (h : TickRun c x st) (hzero : (st 0).bcnt = 0) (t : Nat) :
    (st t).bcnt = 0 := by
  induction t with
  | zero => exact hzero
  | succ t ih => rw [h.toBlock_succ, runTick_bcnt, ih]; rfl

/-- With `DLYMOD` off or no window open, no tick of the run perturbs its length. -/
theorem TickRun.tickLen_unperturbed (h : TickRun c x st)
    (hoff : (st 0).dlymod = false ∨ (st 0).bcnt = 0) (t : Nat) :
    tickLen c (st t).toBlock = (st (t + 1)).active := by
  rw [h.toBlock_succ, runTick_active]
  refine Machine.tickLen_unperturbed fun ⟨hopen, hdly⟩ => ?_
  obtain hoff | hzero := hoff
  · rw [Block.dlymod, h.mode] at hdly
    exact Bool.false_ne_true (hoff.symm.trans hdly)
  · exact hopen (h.bcnt_eq_zero hzero t)

/-! ### The exact delay (R107) -/

/-- Without feedback, `k` behind the cursor is the input of `k` ticks ago. -/
theorem TickRun.memRead_input (h : TickRun c x st) (hfb : (st 0).fbmod = false) {t k : Nat}
    (hpos : 1 ≤ k) (hle : k ≤ 4096) (hkt : k ≤ t) :
    memRead (st t).buf (slotBehind (st t).wcur k) = x (t - k) := by
  rw [h.memRead_written hpos hle hkt, tickWritten, h.fbmod, hfb, fbMix_off]

end

/-- Settles O41: the output interpolates the slots `N` and `N + 1` behind the cursor, which hold the
inputs of then, and a settled length is neither ramped nor perturbed. -/
theorem exactDelayIdentity : Obligations.ExactDelayIdentity := by
  refine fun c x st hrun => ⟨fun N hpos hle hfb hlen t => ?whole,
    fun N fr hpos hle hfr hfb hlen t ht => ?fraction,
    fun L hlo hhi hactive htarget hoff t => ?settled⟩
  case whole =>
    rw [hrun.lastout_succ, tickOut_of_whole (hlen t)]
    split_ifs with ht
    · exact hrun.memRead_input hfb hpos (by omega) ht
    · exact hrun.memRead_kept (by omega) (by omega)
  case fraction =>
    rw [hrun.lastout_succ, tickOut_of_tickLen hfr (hlen t), interp_toInt _ _ hfr,
      hrun.memRead_input hfb hpos (by omega) (by omega),
      hrun.memRead_input hfb (by omega) (by omega) ht, Nat.sub_sub]
  case settled =>
    rw [hrun.tickLen_unperturbed hoff]
    exact hrun.active_settled hlo hhi hactive htarget _

/-! ### The echoes of an impulse (R108) -/

/-- The `k`-th echo of an impulse `P` with the Q16 gain `g`: `k` times the gain, with a floor each
time. -/
def echo (g P k : Nat) : Nat := (fun p => p * g / 65536)^[k] P

theorem echo_succ (g P k : Nat) : echo g P (k + 1) = echo g P k * g / 65536 :=
  Function.iterate_succ_apply' _ k P

/-- No echo is louder than the impulse. -/
theorem echo_le {g : Nat} (hg : g ≤ 65536) (P k : Nat) : echo g P k ≤ P := by
  induction k with
  | zero => exact le_rfl
  | succ k ih =>
    rw [echo_succ]
    exact (Nat.div_le_of_le_mul (by rw [Nat.mul_comm]; gcongr)).trans ih

theorem sat16_natCast {n : Nat} (h : n ≤ 32767) : sat16 n = n :=
  clamp_eq_self (by omega) (by omega)

/-- The hypotheses of R108: feedback on, no window open, `N` whole samples read back in every tick,
zeros in the slots read, and an impulse followed by silence. -/
structure ImpulseRun (c : Config) (N P : Nat) (x : Nat → Sample) (st : Nat → State) : Prop where
  pos : 1 ≤ N
  le : N ≤ 4094
  impulse_le : P ≤ 32767
  run : TickRun c x st
  fbmod : (st 0).fbmod = true
  closed : ∀ t, (st t).bcnt = 0
  len : ∀ t, (tickLen c (st t).toBlock).toNat = 16 * N
  zeros : ∀ j, j < N → memRead (st 0).buf (BitVec.ofInt 12 ((st 0).wcur.toNat + j - N)) = 0
  impulse : (x 0).toInt = P
  silence : ∀ t, 1 ≤ t → x t = 0

section
variable {c : Config} {N P : Nat} {x : Nat → Sample} {st : Nat → State}

/-- The first `N` outputs come from the zeros in the buffer. -/
theorem ImpulseRun.tickOut_early (h : ImpulseRun c N P x st) {t : Nat} (ht : t < N) :
    tickOut c (st t).toBlock = 0 := by
  rw [tickOut_of_whole (h.len t), h.run.memRead_kept (h.le.trans (by decide)) ht]
  exact h.zeros t ht

/-- From then on the output is what was written `N` ticks ago. -/
theorem ImpulseRun.tickOut_late (h : ImpulseRun c N P x st) (t : Nat) :
    tickOut c (st (t + N)).toBlock = tickWritten c (x t) (st t).toBlock := by
  rw [tickOut_of_whole (h.len _), h.run.memRead_written h.pos (h.le.trans (by decide)) (by omega),
    Nat.add_sub_cancel]

/-- With the window closed the gain is the configured one. -/
theorem ImpulseRun.tickWritten_toInt (h : ImpulseRun c N P x st) (t : Nat) :
    (tickWritten c (x t) (st t).toBlock).toInt =
      sat16 ((x t).toInt + (tickOut c (st t).toBlock).toInt * c.fbGain.toNat / 65536) := by
  have hact : tickAct (st t).toBlock = false := by rw [tickAct, h.closed]; rfl
  rw [tickWritten, h.run.fbmod, h.fbmod, fbMix_on, asr_sixteen, tickGain, hact, perturbGain_off]

/-- Tick 0 writes the impulse, with zeros fed back. -/
theorem ImpulseRun.written_zero (h : ImpulseRun c N P x st) :
    (tickWritten c (x 0) (st 0).toBlock).toInt = P := by
  rw [h.tickWritten_toInt, h.tickOut_early h.pos, h.impulse]
  simpa using sat16_natCast h.impulse_le

/-- The other early ticks write zeros. -/
theorem ImpulseRun.written_early (h : ImpulseRun c N P x st) {t : Nat} (hpos : 1 ≤ t)
    (hlt : t < N) : (tickWritten c (x t) (st t).toBlock).toInt = 0 := by
  rw [h.tickWritten_toInt, h.tickOut_early hlt, h.silence t hpos]
  simpa using sat16_natCast (Nat.zero_le _)

/-- From tick `N` on, what was written `N` ticks ago is written again, times the gain. -/
theorem ImpulseRun.written_late (h : ImpulseRun c N P x st) (t : Nat) :
    (tickWritten c (x (t + N)) (st (t + N)).toBlock).toInt =
      sat16 ((tickWritten c (x t) (st t).toBlock).toInt * c.fbGain.toNat / 65536) := by
  rw [h.tickWritten_toInt, h.tickOut_late, h.silence (t + N) (Nat.le_add_left_of_le h.pos),
    show (0 : Sample).toInt = 0 from rfl, Int.zero_add]

/-- What a tick writes: the impulse, its echoes at the multiples of `N`, and zeros in between. -/
theorem ImpulseRun.written (h : ImpulseRun c N P x st) (t : Nat) :
    (tickWritten c (x t) (st t).toBlock).toInt =
      (if N ∣ t then echo c.fbGain.toNat P (t / N) else 0 : Nat) := by
  induction t using Nat.strong_induction_on with
  | _ t ih =>
    obtain hlt | hge := lt_or_ge t N
    · obtain rfl | hpos := Nat.eq_zero_or_pos t
      · rw [h.written_zero, if_pos (dvd_zero N), Nat.zero_div]
        rfl
      · rw [h.written_early hpos hlt, if_neg (Nat.not_dvd_of_pos_of_lt hpos hlt)]
        rfl
    · obtain ⟨s, rfl⟩ := Nat.exists_eq_add_of_le' hge
      rw [h.written_late, ih s (Nat.lt_add_of_pos_right h.pos), Nat.add_div_right s h.pos]
      simp only [Nat.dvd_add_self_right]
      split_ifs
      · have hecho := (echo_le c.fbGain.isLt.le P (s / N + 1)).trans h.impulse_le
        rw [← sat16_natCast hecho, echo_succ]
        rfl
      · simpa using sat16_natCast (Nat.zero_le _)

end

/-- Settles O42: the output is what was written `N` ticks before, which is the impulse or its last
echo times the gain. -/
theorem impulseGivesEchoTrain : Obligations.ImpulseGivesEchoTrain := by
  intro c N P x st hpos hle hP hrun hfb hclosed hlen hzeros himpulse hsilence
  have h : ImpulseRun c N P x st :=
    ⟨hpos, hle, hP, hrun, hfb, hclosed, hlen, hzeros, himpulse, hsilence⟩
  refine ⟨fun k hk => ?echo, fun t ht => ?silent⟩
  case echo =>
    obtain ⟨k, rfl⟩ := Nat.exists_eq_add_of_le' hk
    rw [hrun.lastout_succ, Nat.succ_mul, h.tickOut_late, h.written, if_pos (Dvd.intro_left k rfl),
      Nat.mul_div_cancel k hpos]
    rfl
  case silent =>
    rw [hrun.lastout_succ]
    obtain hlt | hge := lt_or_ge t N
    · exact h.tickOut_early hlt
    · obtain ⟨s, rfl⟩ := Nat.exists_eq_add_of_le' hge
      have hdvd : ¬N ∣ s := fun hdvd => ht ⟨hge, Nat.dvd_add_self_right.2 hdvd⟩
      refine BitVec.eq_of_toInt_eq ?_
      rw [h.tickOut_late, h.written, if_neg hdvd]
      rfl

end Sys2Proof.Machine
end

section
/-! PROOFS. The burst generator (42_burst.md): the pseudo-random register's map and its one cycle (R121,
R122), the window a trigger opens and the ticks that count it down (R124, R125, R129), and the bounds of
the two perturbations (R126, R127). -/

namespace Sys2Proof.Machine

/-! ### The register's map is linear (R121, R122 (e)) -/

theorem lfsrSteps_xor (c : Config) (p q : Nat) :
    lfsrSteps c (p ^^^ q) = lfsrSteps c p ^^^ lfsrSteps c q := by
  simp only [lfsrSteps, Nat.shiftLeft_xor_distrib, Nat.shiftRight_xor_distrib]
  ac_rfl

theorem lfsrAdvance_xor (c : Config) (p q : BitVec 12) :
    lfsrAdvance c (p ^^^ q) = lfsrAdvance c p ^^^ lfsrAdvance c q := by
  rw [lfsrAdvance, BitVec.toNat_xor, lfsrSteps_xor, BitVec.ofNat_xor, lfsrAdvance, lfsrAdvance]

theorem lfsrAdvance_zero (c : Config) : lfsrAdvance c 0 = 0 := by
  simp [lfsrAdvance, lfsrSteps]

theorem iterate_lfsrAdvance_zero (c : Config) (n : Nat) : (lfsrAdvance c)^[n] 0 = 0 :=
  Function.iterate_fixed (lfsrAdvance_zero c) n

/-- Settles O35: the shifts are the rule's products and quotients, no step outgrows its bound, and the
two worked values are evaluated. -/
theorem lfsrAdvanceFollowsTheRule : Obligations.LfsrAdvanceFollowsTheRule := by
  refine ⟨fun r => ?_, by decide, by decide⟩
  intro t1 t2 t3
  have hr := r.isLt
  have ht1 : t1 < 2 ^ 19 := Nat.xor_lt_two_pow (by omega) (by omega)
  have ht2 : t2 < 2 ^ 19 := Nat.xor_lt_two_pow ht1 (by omega)
  have ht3 : t3 < 2 ^ 28 := Nat.xor_lt_two_pow (by omega) (by omega)
  refine ⟨?_, ht1, ht3⟩
  simp only [lfsrAdvance, lfsrSteps, BitVec.toNat_ofNat, Nat.shiftLeft_eq,
    Nat.shiftRight_eq_div_pow]
  rfl

/-! ### Many advances at once

`r` advanced `m` times is a sum of `r` advanced few times, as a power of `x` is a polynomial of low
degree modulo the map's characteristic polynomial. A sum of advances commutes with the map, so what
holds of `m` advances of the seed gives `m + n` advances from `n`. -/

/-- The sum over the two-element field of `r` advanced `e` times, for each `e` listed. -/
def advanceSum (c : Config) (es : List Nat) (r : BitVec 12) : BitVec 12 :=
  es.foldr (fun e acc => (lfsrAdvance c)^[e] r ^^^ acc) 0

theorem advanceSum_cons (c : Config) (e : Nat) (es : List Nat) (r : BitVec 12) :
    advanceSum c (e :: es) r = (lfsrAdvance c)^[e] r ^^^ advanceSum c es r := rfl

theorem advanceSum_commute (c : Config) (es : List Nat) :
    Function.Commute (advanceSum c es) (lfsrAdvance c) := by
  intro r
  induction es with
  | nil => exact (lfsrAdvance_zero c).symm
  | cons e es ih =>
    rw [advanceSum_cons, advanceSum_cons, ih, lfsrAdvance_xor, Function.Commute.iterate_self]

/-- This hardware's register holds `v` after `n` advances from the seed. -/
def SeedAt (n : Nat) (v : BitVec 12) : Prop := (lfsrAdvance hw)^[n] 1 = v

theorem SeedAt.add {m n : Nat} {u v w : BitVec 12} {es : List Nat} (hm : SeedAt m u)
    (hn : SeedAt n v) (hsum : advanceSum hw es 1 = u) (hmul : advanceSum hw es v = w) :
    SeedAt (m + n) w := by
  rw [SeedAt, Nat.add_comm, Function.iterate_add_apply, hm, ← hsum,
    ← (advanceSum_commute hw es).iterate_right n, hn, hmul]

/-! ### The cycle of the non-zero values (R122 (a) to (c)) -/

/-- The register after 4095 advances, and after 4095 / 13, 4095 / 7, 4095 / 5 and 4095 / 3, along an
addition chain. -/
theorem seedAt_cycle :
    SeedAt 315 8 ∧ SeedAt 585 42 ∧ SeedAt 819 51 ∧ SeedAt 1365 377 ∧ SeedAt 4095 1 := by
  have sum13 : advanceSum hw [1, 2, 6, 9] 1 = 2791 := by decide
  have sum39 : advanceSum hw [0, 1, 2, 3, 4, 5, 9, 10] 1 = 3304 := by decide
  have sum78 : advanceSum hw [2, 3, 6, 8, 9, 11] 1 = 3221 := by decide
  have sum156 : advanceSum hw [3, 4, 5, 6, 8, 9, 10] 1 = 3895 := by decide
  have sum234 : advanceSum hw [0, 1, 2, 4, 7, 8, 11] 1 = 3243 := by decide
  have sum312 : advanceSum hw [0, 3, 5, 6, 8, 11] 1 = 1301 := by decide
  have sum546 : advanceSum hw [2, 4, 6, 8, 10, 11] 1 = 1182 := by decide
  have sum1365 : advanceSum hw [2, 4, 5, 6, 8, 10] 1 = 377 := by decide
  have at3 : SeedAt 3 433 := by unfold SeedAt; decide
  have at13 : SeedAt 13 2791 := by unfold SeedAt; decide
  have at26 : SeedAt (13 + 13) 460 := at13.add at13 sum13 (by decide)
  have at39 : SeedAt (13 + 26) 3304 := at13.add at26 sum13 (by decide)
  have at78 : SeedAt (39 + 39) 3221 := at39.add at39 sum39 (by decide)
  have at156 : SeedAt (78 + 78) 3895 := at78.add at78 sum78 (by decide)
  have at234 : SeedAt (78 + 156) 3243 := at78.add at156 sum78 (by decide)
  have at312 : SeedAt (156 + 156) 1301 := at156.add at156 sum156 (by decide)
  have at315 : SeedAt (312 + 3) 8 := at312.add at3 sum312 (by decide)
  have at546 : SeedAt (234 + 312) 1182 := at234.add at312 sum234 (by decide)
  have at585 : SeedAt (39 + 546) 42 := at39.add at546 sum39 (by decide)
  have at819 : SeedAt (234 + 585) 51 := at234.add at585 sum234 (by decide)
  have at1365 : SeedAt (546 + 819) 377 := at546.add at819 sum546 (by decide)
  have at2730 : SeedAt (1365 + 1365) 376 := at1365.add at1365 sum1365 (by decide)
  have at4095 : SeedAt (1365 + 2730) 1 := at1365.add at2730 sum1365 (by decide)
  exact ⟨at315, at585, at819, at1365, at4095⟩

theorem iterate_seed_cycle : (lfsrAdvance hw)^[4095] 1 = 1 := by
  obtain ⟨-, -, -, -, hcycle⟩ := seedAt_cycle
  exact hcycle

/-- A divisor of 4095 is 4095 or misses one of its prime factors 13, 7, 5 and 3. -/
theorem divisor_of_4095 {d : Nat} (h : d ∣ 4095) :
    d = 4095 ∨ d ∣ 315 ∨ d ∣ 585 ∨ d ∣ 819 ∨ d ∣ 1365 := by
  have hmem : d ∈ Nat.divisors 4095 := Nat.mem_divisors.2 ⟨h, by decide⟩
  simp only [Nat.divisors_ofNat] at hmem
  clear h
  revert d
  decide

/-- The seed's period divides 4095 and none of the four quotients of 4095 by a prime. -/
theorem minimalPeriod_seed : Function.minimalPeriod (lfsrAdvance hw) 1 = 4095 := by
  obtain ⟨at315, at585, at819, at1365, at4095⟩ := seedAt_cycle
  have not_dvd {n : Nat} {v : BitVec 12} (hn : SeedAt n v) (hv : v ≠ 1) :
      ¬Function.minimalPeriod (lfsrAdvance hw) 1 ∣ n := fun hdvd =>
    hv (hn.symm.trans (Function.isPeriodicPt_iff_minimalPeriod_dvd.2 hdvd))
  obtain h | h | h | h | h := divisor_of_4095 (Function.IsPeriodicPt.minimalPeriod_dvd at4095)
  · exact h
  · exact absurd h (not_dvd at315 (by decide))
  · exact absurd h (not_dvd at585 (by decide))
  · exact absurd h (not_dvd at819 (by decide))
  · exact absurd h (not_dvd at1365 (by decide))

theorem iterate_seed_ne_zero {k : Nat} (hk : k ≤ 4095) : (lfsrAdvance hw)^[k] 1 ≠ 0 := by
  intro hzero
  have hlate : (lfsrAdvance hw)^[4095 - k + k] 1 = 0 := by
    rw [Function.iterate_add_apply, hzero, iterate_lfsrAdvance_zero]
  rw [Nat.sub_add_cancel hk, iterate_seed_cycle] at hlate
  exact absurd hlate (by decide)

/-- The first 4095 values are distinct and not zero, so they are all the values that are not zero. -/
theorem exists_iterate_seed {r : BitVec 12} (h : r ≠ 0) :
    ∃ k < 4095, (lfsrAdvance hw)^[k] 1 = r := by
  have hcard : (Finset.univ.erase (0 : BitVec 12)).card ≤ (Finset.range 4095).card := by
    rw [Finset.card_erase_of_mem (Finset.mem_univ _), Finset.card_univ,
      Fintype.card_congr BitVec.equivFin.toEquiv, Fintype.card_fin, Finset.card_range]
    decide
  have hmaps : Set.MapsTo (fun k => (lfsrAdvance hw)^[k] 1) (Finset.range 4095)
      (Finset.univ.erase (0 : BitVec 12)) := fun k hk => by
    simpa using iterate_seed_ne_zero (Finset.mem_range.1 hk).le
  have hinj : Set.InjOn (fun k => (lfsrAdvance hw)^[k] 1) (Finset.range 4095) := by
    rw [Finset.coe_range, ← minimalPeriod_seed]
    exact Function.iterate_injOn_Iio_minimalPeriod
  obtain ⟨k, hk, hr⟩ := Finset.surjOn_of_injOn_of_card_le _ hmaps hinj hcard (by simpa using h)
  exact ⟨k, Finset.mem_range.1 hk, hr⟩

/-- Every value has a predecessor: 0 itself, and the one before it in the cycle for any other. -/
theorem lfsrAdvance_hw_bijective : Function.Bijective (lfsrAdvance hw) := by
  refine Function.Surjective.bijective_of_finite fun r => ?_
  by_cases hr : r = 0
  · exact ⟨0, hr ▸ lfsrAdvance_zero hw⟩
  · obtain ⟨k, -, rfl⟩ := exists_iterate_seed hr
    refine ⟨(lfsrAdvance hw)^[k + 4094] 1, ?_⟩
    rw [← Function.iterate_succ_apply' (lfsrAdvance hw), Nat.succ_eq_add_one, Nat.add_assoc,
      Function.iterate_add_apply, iterate_seed_cycle]

/-- Settles O36: the seed's cycle is all the values but 0, which makes the linear map a bijection. -/
theorem lfsrRunsThroughEveryNonzeroValue : Obligations.LfsrRunsThroughEveryNonzeroValue := by
  refine ⟨lfsrAdvance_hw_bijective, fun r => ?_, ⟨iterate_seed_cycle, fun k hpos hlt => ?_⟩,
    by decide, lfsrAdvance_xor hw⟩
  · exact lfsrAdvance_hw_bijective.injective.eq_iff' (lfsrAdvance_zero hw)
  · exact Function.not_isPeriodicPt_of_pos_of_lt_minimalPeriod hpos.ne'
      (minimalPeriod_seed.symm ▸ hlt)

/-! ### The window (R124, R125) -/

theorem InRange.samples_range {l : Length} (h : InRange l) :
    1 ≤ l.toNat / 16 ∧ l.toNat / 16 ≤ 4094 := by
  rw [inRange_iff] at h
  omega

/-- Settles O14: a rising edge writes the window's length to `BCNT` alone, a falling edge writes
`BCNT` back to itself, and the words are `TRIG`'s row. -/
theorem trigLoadsBurstWindow : Obligations.TrigLoadsBurstWindow :=
  ⟨fun s => ⟨windowLen s.active, exec_trig true s, windowLen_toNat s.active,
    fun ⟨hactive, _⟩ => windowLen_toNat s.active ▸ hactive.samples_range⟩,
    exec_trig false, fun w => (trig_row_iff w).1⟩

/-- Settles O37: the two cases of `burst_step`. -/
theorem tickCountsTheWindowDown : Obligations.TickCountsTheWindowDown := by
  refine fun s x => ⟨_, exec_tick x s, fun hopen => ?_, fun hclosed => ?_⟩
  · exact ⟨burstReg_open hopen, burstCount_toNat s.bcnt, (tickAct_iff _).2 hopen,
      burstReg_open hopen⟩
  · have hidle : tickAct s.toBlock = false :=
      Bool.eq_false_iff.2 fun hact => (tickAct_iff _).1 hact hclosed
    refine ⟨?_, if_neg (Bool.eq_false_iff.1 hidle), hidle⟩
    show burstReg hw s.lfsr s.bcnt = s.lfsr
    rw [hclosed, burstReg_closed]

/-! ### The perturbations (R126, R127) -/

/-- Clamping takes no value further from one inside the bounds. -/
theorem natAbs_clamp_sub_le {v lo hi a : Int} (hlo : lo ≤ a) (hhi : a ≤ hi) :
    (clamp v lo hi - a).natAbs ≤ (v - a).natAbs := by
  unfold clamp
  split_ifs <;> omega

theorem perturbLen_on_toNat (active : Length) (r : BitVec 12) :
    ((perturbLen active true true r).toNat : Int) =
      clamp (active.toNat + (r.toNat % 256 : Nat) - 128) 16 65519 := by
  obtain ⟨hlo, hhi⟩ := clamp_len_range (active.toNat + (r.toNat % 256 : Nat) - 128)
  have hbits : (r.extractLsb' 0 dlyModBits).toNat = r.toNat % 256 := BitVec.extractLsb'_toNat ..
  rw [perturbLen, Bool.and_self, if_pos rfl, hbits]
  exact toNat_ofInt_of_fits (le_trans (by decide) hlo) (lt_of_le_of_lt hhi (by decide))

/-- Settles O38: the clamped length fits, the bits added less the bias are in -128 to 127, and `ACTIVE`
is written in the tick's first step. -/
theorem perturbedLengthIsBounded : Obligations.PerturbedLengthIsBounded := by
  refine ⟨fun active r => ⟨perturbLen_on_toNat active r, fun hactive => ?_⟩,
    fun active act dlymod r => perturbLen_off r, fun s x => ⟨_, exec_tick x s, rfl⟩⟩
  rw [perturbLen_on_toNat]
  refine (natAbs_clamp_sub_le hactive.1 hactive.2).trans ?_
  omega

theorem perturbGain_on_toNat (c : Config) (r : BitVec 12) :
    ((perturbGain c true r).toNat : Int) = max 0 ((c.fbGain.toNat : Int) - 4 * r.toNat) := by
  have hgain := c.fbGain.isLt
  have hdrop : r.toNat <<< fbModShift = 4 * r.toNat := by
    rw [fbModShift, Nat.shiftLeft_eq, Nat.mul_comm]
  rw [perturbGain, if_pos rfl, hdrop, toNat_ofInt_of_fits (by omega) (by omega)]
  rw [Nat.cast_mul, Nat.cast_ofNat]

/-- Settles O39: the gain less four times the register, never below 0, still fits. -/
theorem perturbedGainIsBounded : Obligations.PerturbedGainIsBounded := by
  refine ⟨fun c r => ⟨perturbGain_on_toNat c r, perturbGain_off c r, fun act => ?_⟩, fun r hr => ?_⟩
  · cases act with
    | false => exact le_rfl
    | true =>
      have hval := perturbGain_on_toNat c r
      omega
  · have hval := perturbGain_on_toNat hw r
    have hgain : hw.fbGain.toNat = 32768 := rfl
    have hpos : r.toNat ≠ 0 := fun hzero => hr (BitVec.eq_of_toNat_eq hzero)
    have hlt := r.isLt
    omega

/-! ### The window along a run (R129) -/

/-- Without a reset, only a burst-active tick advances the register. -/
theorem runCommand_lfsr (c : Config) {i : Instr} (hi : i ≠ .reset) (b : Block) :
    (runCommand c i b).1.lfsr =
      (lfsrAdvance c)^[if isTick i && b.burstActive then 1 else 0] b.lfsr := by
  cases i with
  | tick x => exact (apply_ite (fun k => (lfsrAdvance c)^[k] b.lfsr) (b.burstActive = true) 1 0).symm
  | reset => exact absurd rfl hi
  | rdreg rn => exact congrArg Block.lfsr (runRdreg_block rn b)
  | _ => rfl

/-- Without a reset or a rising edge, each tick takes one off the count, which stops at 0. -/
theorem runCommand_bcnt (c : Config) {i : Instr} (hi : i ≠ .trig true ∧ i ≠ .reset) (b : Block) :
    (runCommand c i b).1.bcnt.toNat = b.bcnt.toNat - if isTick i then 1 else 0 := by
  obtain ⟨htrig, hreset⟩ := hi
  cases i with
  | tick x => exact burstCount_toNat b.bcnt
  | reset => exact absurd rfl hreset
  | trig edge =>
    cases edge with
    | true => exact absurd rfl htrig
    | false => rfl
  | rdreg rn => exact congrArg (fun b => b.bcnt.toNat) (runRdreg_block rn b)
  | _ => rfl

section
variable {c : Config} {cmds : Nat → Instr} {st : Nat → State}

theorem Execution.lfsr (h : Execution c cmds st) (hcmds : ∀ t, cmds t ≠ .reset) (t : Nat) :
    (st t).lfsr = (lfsrAdvance c)^[burstTicksBefore cmds st t] (st 0).lfsr := by
  induction t with
  | zero => rfl
  | succ t ih =>
    rw [h.toBlock_succ, runCommand_lfsr c (hcmds t), ih, burstTicksBefore, Nat.add_comm,
      Function.iterate_add_apply]

variable (h : Execution c cmds st) (hcmds : ∀ t, cmds t ≠ .trig true ∧ cmds t ≠ .reset)
include h hcmds

theorem Execution.bcnt_toNat (t : Nat) :
    (st t).bcnt.toNat = (st 0).bcnt.toNat - ticksBefore cmds t := by
  induction t with
  | zero => rfl
  | succ t ih => rw [h.toBlock_succ, runCommand_bcnt c (hcmds t), ih, ticksBefore, Nat.sub_sub]

theorem Execution.bcnt_ne_zero_iff (t : Nat) :
    (st t).bcnt ≠ 0 ↔ ticksBefore cmds t < (st 0).bcnt.toNat := by
  rw [ne_eq, ← BitVec.toNat_inj, h.bcnt_toNat hcmds]
  simp [Nat.sub_eq_zero_iff_le]

theorem Execution.burstTicksBefore_eq (t : Nat) :
    burstTicksBefore cmds st t = min (ticksBefore cmds t) (st 0).bcnt.toNat := by
  induction t with
  | zero => simp [burstTicksBefore, ticksBefore]
  | succ t ih =>
    have hopen := (burstActive_iff (st t).toBlock).trans (h.bcnt_ne_zero_iff hcmds t)
    simp only [burstTicksBefore, ticksBefore, ih, Bool.and_eq_true, hopen]
    cases isTick (cmds t) with
    | false => simp
    | true =>
      simp only [true_and, if_true]
      split <;> omega

end

/-- Settles O40: along a run with no rising edge the count falls by one a tick, so a burst-active tick
is one of the first `K`; along a run with no reset each of them advances the register once. -/
theorem burstWindowLastsItsLength : Obligations.BurstWindowLastsItsLength := by
  refine fun c cmds st hrun => ⟨fun s htrig hcmds => ?_, fun hseed hcmds t => ?_⟩
  · obtain ⟨hstart, -⟩ := execWith_cases htrig
    have hbcnt : (st 0).bcnt.toNat = s.active.toNat / 16 := by
      rw [hstart]; exact windowLen_toNat s.active
    have hlfsr : (st 0).lfsr = s.lfsr := by rw [hstart]; rfl
    refine ⟨hbcnt, fun ⟨hactive, _⟩ => hactive.samples_range, fun t => ⟨?_, ?_⟩⟩
    · rw [hrun.bcnt_ne_zero_iff hcmds, hbcnt]
    · rw [hrun.lfsr (fun t => (hcmds t).2), hrun.burstTicksBefore_eq hcmds, hbcnt, hlfsr]
  · rw [hrun.lfsr hcmds, hseed]

end Sys2Proof.Machine
end

section
/-! PROOFS. The whole tick (43_sample_processor.md R141): the value each step computes, in the words
of the rule, and the state they leave together. -/

namespace Sys2Proof.Machine

/-! ### The burst step (R125) -/

theorem burstAct_eq_decide (n : BitVec 12) : burstAct n = decide (n ≠ 0) :=
  Bool.eq_iff_iff.2 (by rw [burstAct_iff, decide_eq_true_iff])

theorem burstReg_eq (c : Config) (r n : BitVec 12) :
    burstReg c r n = if n ≠ 0 then lfsrAdvance c r else r :=
  if_congr (burstAct_iff n) rfl rfl

theorem burstCount_eq (n : BitVec 12) : burstCount n = if n ≠ 0 then n - 1 else n :=
  if_congr (burstAct_iff n) rfl rfl

/-! ### The perturbations (R126, R127) -/

theorem tickLen_eq (c : Config) (b : Block) :
    tickLen c b = perturbLen (rampStep b.active b.target b.rampinc) (decide (b.bcnt ≠ 0))
      (b.mode.getLsbD 1) (if b.bcnt ≠ 0 then lfsrAdvance c b.lfsr else b.lfsr) := by
  rw [tickLen, tickAct, burstAct_eq_decide, tickReg, burstReg_eq]
  rfl

theorem tickGain_eq (c : Config) (b : Block) :
    tickGain c b = perturbGain c (decide (b.bcnt ≠ 0))
      (if b.bcnt ≠ 0 then lfsrAdvance c b.lfsr else b.lfsr) := by
  rw [tickGain, tickAct, burstAct_eq_decide, tickReg, burstReg_eq]

/-! ### The read (R102, R104) and the mixer (R105) -/

theorem slotA_eq (w : Slot) (l : Length) :
    slotA w l = BitVec.ofInt 12 (w.toNat - (l.toNat / 16 : Nat)) := by
  rw [slotA, lenInt_eq]

theorem slotB_eq (w : Slot) (l : Length) :
    slotB w l = BitVec.ofInt 12 (w.toNat - (l.toNat / 16 : Nat) - 1) := by
  rw [slotB, lenInt_eq]

theorem readPos_eq (w : Slot) (l : Length) :
    readPos w l = BitVec.ofInt 16 (16 * w.toNat - l.toNat) := by
  rw [readPos, Int.mul_comm]
  rfl

/-- The output of a tick, as an exact integer. -/
theorem tickOut_toInt (c : Config) (b : Block) :
    (tickOut c b).toInt = (memRead b.buf (slotA b.wcur (tickLen c b))).toInt +
      ((memRead b.buf (slotB b.wcur (tickLen c b))).toInt -
        (memRead b.buf (slotA b.wcur (tickLen c b))).toInt) *
          ((tickLen c b).toNat % 16 : Nat) / 16 := by
  rw [tickOut_eq, interp_toInt _ _ (Nat.mod_lt _ (by decide))]

/-- The sample a tick stores, as an exact integer. -/
theorem tickWritten_toInt (c : Config) (x : Sample) (b : Block) :
    (tickWritten c x b).toInt = if b.mode.getLsbD 0 then
      clamp (x.toInt + (tickOut c b).toInt * (tickGain c b).toNat / 65536) (-32768) 32767
    else x.toInt := by
  rw [tickWritten, Block.fbmod]
  cases b.mode.getLsbD 0 with
  | true => exact fbMix_on x (tickOut c b) (tickGain c b)
  | false => rfl

/-! ### The cursor (R106) -/

theorem slot_succ_eq (w : Slot) : w + 1 = BitVec.ofInt 12 (w.toNat + 1) := by
  rw [BitVec.ofInt_add, BitVec.ofInt_natCast, BitVec.ofNat_toNat, BitVec.setWidth_eq]
  rfl

/-! ### The steps together (R141) -/

/-- Settles O18: each field of the model's tick is the value its step of the rule names. -/
theorem tickDoesTheStepsInOrder : Obligations.TickDoesTheStepsInOrder := by
  intro s x active act r efflen g li fr a b
  have hreg : tickReg hw s.toBlock = r := burstReg_eq hw s.lfsr s.bcnt
  have hlen : tickLen hw s.toBlock = efflen := tickLen_eq hw s.toBlock
  have hgain : tickGain hw s.toBlock = g := tickGain_eq hw s.toBlock
  have ha : memRead s.buf (slotA s.wcur efflen) = a := congrArg _ (slotA_eq s.wcur efflen)
  have hb : memRead s.buf (slotB s.wcur efflen) = b := congrArg _ (slotB_eq s.wcur efflen)
  refine ⟨tickOut hw s.toBlock, tickWritten hw x s.toBlock, ?out, ?written, ?state⟩
  case out => rw [tickOut_toInt, hlen, ha, hb]
  case written => rw [tickWritten_toInt, hgain]
  case state =>
    rw [exec_tick, State.commit, runTick, hreg, hlen, burstCount_eq, readPos_eq, slot_succ_eq]
    rfl

end Sys2Proof.Machine
end

section
/-! PROOFS. `NOP`, `MODE`, `RDREG` and `RESET` (44_system.md): the words of each, the values `RDREG`
answers, and the four rules R150 to R153. -/

namespace Sys2Proof

/-! ### The words that are a command, and those that are none -/

/-- The mask of a command with no operand keeps the whole word. -/
theorem and_whole_mask (w : Word) : w &&& 0xFFFFFFFF = w := BitVec.and_allOnes

theorem decode_nop_iff (w : Word) : decode w = .ok .nop ↔ w = 0 := by
  rw [← nop_row_iff, and_whole_mask]

theorem decode_reset_iff (w : Word) : decode w = .ok .reset ↔ w = 0xF0000000 := by
  rw [← reset_row_iff, and_whole_mask]

theorem decode_error_of_ne_ok {w : Word} (h : ∀ i, decode w ≠ .ok i) : ∃ e, decode w = .error e := by
  cases hw : decode w with
  | error e => exact ⟨e, rfl⟩
  | ok i => exact absurd hw (h i)

/-- Opcode 0 is `NOP` or nothing. -/
theorem eq_nop_of_decode {w : Word} {i : Instr} (hop : field 28 4 w = 0) (h : decode w = .ok i) :
    i = .nop := by
  obtain ⟨-, rfl⟩ : field 0 28 w = 0 ∧ i = .nop := by simpa [hop] using decode_cases h
  rfl

/-- Opcode 5 is `RDREG` of a register or nothing. -/
theorem regNum_le_of_decode {w : Word} {i : Instr} (hop : field 28 4 w = 5) (h : decode w = .ok i) :
    (field 0 4 w).toNat ≤ 9 := by
  obtain ⟨-, hrn, -⟩ : field 4 24 w = 0 ∧ (field 0 4 w).toNat ≤ 9 ∧ i = .rdreg (field 0 4 w) := by
    simpa [hop] using decode_cases h
  exact hrn

end Sys2Proof

namespace Sys2Proof.Machine

/-! ### The value of a register (10_state.md R26, 44_system.md R152) -/

/-- Two flags as a number, bit 1 above bit 0. -/
theorem toNat_ofBool_append_ofBool (hi lo : Bool) :
    (BitVec.ofBool hi ++ BitVec.ofBool lo).toNat =
      (if lo = true then 1 else 0) + (if hi = true then 2 else 0) := by
  revert hi lo
  decide

theorem status_toNat (b : Block) : b.status.toNat =
    (if b.bcnt ≠ 0 then 1 else 0) +
      (if (b.active.toNat : Int) = clamp b.target.toNat 16 65519 then 2 else 0) := by
  rw [Block.status, toNat_ofBool_append_ofBool]
  exact congrArg₂ _ (if_congr (burstActive_iff b) rfl rfl) (if_congr (settled_iff b) rfl rfl)

/-- The pattern of a sample is its value modulo 65536. -/
theorem sample_toNat (x : Sample) : x.toNat = (x.toInt % 65536).toNat := by
  conv_lhs => rw [← BitVec.ofInt_toInt (x := x), BitVec.toNat_ofInt]
  rfl

/-- What R152 has `RDREG` answer for a register, as a number. -/
def Block.regValue (b : Block) : Reg → Nat
  | .active => b.active.toNat
  | .target => b.target.toNat
  | .rampinc => b.rampinc.toNat
  | .wcur => b.wcur.toNat
  | .rdpos => b.rdpos.toNat
  | .lastout => (b.lastout.toInt % 65536).toNat
  | .lfsr => b.lfsr.toNat
  | .bcnt => b.bcnt.toNat
  | .mode => b.mode.toNat
  | .status => (if b.bcnt ≠ 0 then 1 else 0) +
      (if (b.active.toNat : Int) = clamp b.target.toNat 16 65519 then 2 else 0)

/-- No register is wider than the response, so each is answered whole. -/
theorem readReg_toNat (b : Block) (r : Reg) : (b.readReg r).toNat = b.regValue r := by
  cases r with
  | active | target | rampinc | rdpos => rfl
  | wcur | lfsr | bcnt | mode => exact BitVec.toNat_setWidth_of_le (by decide)
  | lastout => exact sample_toNat b.lastout
  | status => exact (BitVec.toNat_setWidth_of_le (by decide)).trans (status_toNat b)

theorem regNum_cases {rn : BitVec 4} (h : rn.toNat ≤ 9) :
    rn = 0 ∨ rn = 1 ∨ rn = 2 ∨ rn = 3 ∨ rn = 4 ∨ rn = 5 ∨ rn = 6 ∨ rn = 7 ∨ rn = 8 ∨ rn = 9 := by
  revert rn
  decide

/-! ### The four commands -/

/-- Settles O12: `NOP` commits the block it found, its row is one word, and opcode 0 has no other. -/
theorem nopAnswersAndChangesNothing : Obligations.NopAnswersAndChangesNothing := by
  refine ⟨exec_nop, decode_nop_iff, fun w hop hw => decode_error_of_ne_ok fun i hi => hw ?_⟩
  obtain rfl := eq_nop_of_decode hop hi
  exact (decode_nop_iff w).1 hi

/-- Settles O15: the flags written are `writeFlags`, one bit each, and the words are `MODE`'s row. -/
theorem modeWritesEnabledFlags : Obligations.ModeWritesEnabledFlags :=
  ⟨fun s fb dly => ⟨writeFlags fb dly s.mode, exec_mode fb dly s, writeFlags_fbmod fb dly s.mode,
    writeFlags_dlymod fb dly s.mode⟩, fun w => (mode_row_iff w).1⟩

/-- Settles O16: each of the ten numbers names a register, which `readReg` answers whole, and the words
with a number above them are in no row. -/
theorem rdregAnswersRegister : Obligations.RdregAnswersRegister := by
  refine ⟨fun s rn hrn => ?answer, fun w hmask hrn => (rdreg_row_iff w).1 ⟨hmask, hrn⟩,
    fun w hmask hrn => decode_error_of_ne_ok fun i hi => ?illegal⟩
  case answer =>
    obtain rfl | rfl | rfl | rfl | rfl | rfl | rfl | rfl | rfl | rfl := regNum_cases hrn
    all_goals exact ⟨_, exec_rdreg rfl s, readReg_toNat s.toBlock _⟩
  case illegal =>
    obtain ⟨hop, -⟩ := (and_mask_eq_iff 4 24 5 rfl (by decide) (by decide)).1 hmask
    exact absurd (regNum_le_of_decode hop hi) (Nat.not_le.2 hrn)

/-- Settles O17: `RESET` commits `Block.resetRegs` at this hardware's parameters, and its row is one
word. -/
theorem resetReturnsRegisters : Obligations.ResetReturnsRegisters :=
  ⟨fun s => ⟨_, exec_reset s, rfl, rfl, rfl, rfl, rfl, rfl, rfl, rfl, rfl, afterReset_status s.buf,
    rfl, rfl, rfl, rfl, rfl⟩, decode_reset_iff⟩

end Sys2Proof.Machine
end

section
/-! PROOFS. Every command finishes and answers, and a run ends with nothing in flight
(70_reset_and_hazards.md R190). -/

namespace Sys2Proof.Machine

/-! ### One event -/

/-- Every command finishes and answers, leaves the host's stream alone and a block in service in
service. -/
theorem exec_answers (i : Instr) {s : State} (hs : s.inService = true) :
    ∃ t, exec i s = .next t ∧ t.rsp.isSome = true ∧ t.inbox = s.inbox ∧ t.inService = true := by
  obtain ⟨t, ht⟩ := execWith_completes hw i s
  obtain ⟨-, hrsp, hinbox, -, hservice⟩ := execWith_cases ht
  exact ⟨t, (exec_eq_execWith i s).trans ht, by rw [hrsp, Option.isSome_some], hinbox,
    hservice.2 (.inr hs)⟩

theorem mayRun_of_inService (i : Instr) {s : State} (hs : s.inService = true) : mayRun i s = true := by
  rw [mayRun, hs, Bool.true_or]

/-- A block in service refuses no word: a legal one runs, an illegal one is flagged. -/
theorem accept_answers (w : Word) {s : State} (hs : s.inService = true) :
    ∃ t, accept exec w s = .next t ∧ t.rsp.isSome = true ∧ t.inbox = s.inbox ∧
      t.inService = true := by
  cases hd : decode w with
  | ok i =>
    rw [accept_legal hd (mayRun_of_inService i hs)]
    exact exec_answers i hs
  | error e => exact ⟨s.reject, accept_illegal hd hs, rfl, reject_inbox s, hs⟩

theorem step_cmd {s : State} {w : Word} {rest : List PortEvent} (h : s.inbox = .cmd w :: rest) :
    step s = accept exec w { s with inbox := rest } := by
  simp only [step, stepBy, h]

theorem step_rstDuring {s : State} {w : Word} {rest : List PortEvent}
    (h : s.inbox = .rstDuring w :: rest) :
    step s = .next (abandon hw exec w { s with inbox := rest }) := by
  simp only [step, stepBy, h]

theorem step_cmd_answers {s : State} (hs : s.inService = true) {w : Word} {rest : List PortEvent}
    (h : s.inbox = .cmd w :: rest) :
    ∃ t, step s = .next t ∧ t.rsp.isSome = true ∧ t.inbox = rest ∧ t.inService = true := by
  rw [step_cmd h]
  exact accept_answers w hs

/-- Every event of the host, a pulse on `rst_n` as well as a word, is taken off the stream in one step. -/
theorem step_takes_event {s : State} (hs : s.inService = true) {e : PortEvent}
    {rest : List PortEvent} (h : s.inbox = e :: rest) :
    ∃ t, step s = .next t ∧ t.inbox = rest ∧ t.inService = true := by
  cases e with
  | cmd w =>
    obtain ⟨t, ht, -, hinbox, hservice⟩ := step_cmd_answers hs h
    exact ⟨t, ht, hinbox, hservice⟩
  | rst => exact ⟨_, step_rst h, rfl, rfl⟩
  | rstDuring w => exact ⟨_, step_rstDuring h, rfl, rfl⟩

/-! ### The whole stream -/

theorem run_succ_of_step {M : Host.Core} {s t : M.State} (h : M.step s = .next t) (n : Nat) :
    M.run (n + 1) s = M.run n t := by
  rw [Host.Core.run, h]

/-- As many steps as the host's stream has events leave nothing in flight. -/
theorem run_empties_inbox {s : State} (hs : s.inService = true) :
    ∃ t, core.run s.inbox.length s = .next t ∧ t.inbox = [] ∧ t.inService = true := by
  induction hb : s.inbox generalizing s with
  | nil => exact ⟨s, rfl, hb, hs⟩
  | cons e rest ih =>
    obtain ⟨t, ht, hinbox, hservice⟩ := step_takes_event hs hb
    rw [List.length_cons, run_succ_of_step (M := core) ht]
    exact ih hservice hinbox

/-- Settles O11: on a block in service a word is accepted and answered, and each event of the stream is
taken off it in one step, by induction on the stream. -/
theorem everyCommandFinishesAndAnswers : Obligations.EveryCommandFinishesAndAnswers :=
  fun _ hs => ⟨fun _ _ => step_cmd_answers hs, run_empties_inbox hs⟩

end Sys2Proof.Machine
end

section
/-! PROOFS. The encoder against the decoder (30_encoding.md sections 3 to 6): a word is its fields
put together, so a row of the opcode map with its operands has one word, but for the value bits that
`MODE` ignores. -/

namespace Sys2Proof

/-! ### A word from its fields (R63) -/

/-- An opcode, a middle field and the lowest field, put together, are the word that has these
fields. -/
theorem append_fields_iff {len lo : Nat} (op : BitVec 4) (mid : BitVec len) (low : BitVec lo)
    (w : BitVec (4 + len + lo)) :
    w = op ++ mid ++ low ↔
      w.extractLsb' (lo + len) 4 = op ∧ w.extractLsb' lo len = mid ∧ w.extractLsb' 0 lo = low := by
  constructor
  · rintro rfl
    refine ⟨?_, ?_, BitVec.extractLsb'_append_eq_right⟩
    · rw [BitVec.extractLsb'_append_eq_of_le (Nat.le_add_right lo len), Nat.add_sub_cancel_left,
        BitVec.extractLsb'_append_eq_left]
    · rw [BitVec.extractLsb'_append_eq_of_le le_rfl, Nat.sub_self,
        BitVec.extractLsb'_append_eq_right]
  · rintro ⟨rfl, rfl, rfl⟩
    rw [BitVec.extractLsb'_append_extractLsb'_eq_extractLsb' rfl,
      BitVec.extractLsb'_append_extractLsb'_eq_extractLsb' (Nat.zero_add lo).symm,
      BitVec.extractLsb'_eq_self]

/-! ### The word of each command but `MODE` (R65) -/

section
variable {w : Word}

theorem eq_encode_tick_iff {x : Sample} : w = encode (.tick x) ↔
    field 28 4 w = 1 ∧ field 16 12 w = 0 ∧ field 0 16 w = x :=
  append_fields_iff 1 0#12 x w

theorem eq_encode_ctrl_iff {cv knob : Control} : w = encode (.ctrl cv knob) ↔
    field 28 4 w = 2 ∧ field 14 14 w = cv ∧ field 0 14 w = knob :=
  append_fields_iff 2 cv knob w

theorem eq_encode_trig_iff {edge : Bool} : w = encode (.trig edge) ↔
    field 28 4 w = 3 ∧ field 1 27 w = 0 ∧ field 0 1 w = BitVec.ofBool edge :=
  append_fields_iff 3 0#27 (.ofBool edge) w

theorem eq_encode_rdreg_iff {rn : BitVec 4} : w = encode (.rdreg rn) ↔
    field 28 4 w = 5 ∧ field 4 24 w = 0 ∧ field 0 4 w = rn :=
  append_fields_iff 5 0#24 rn w

theorem field_bit_iff {b : Bool} : field 0 1 w = BitVec.ofBool b ↔ w.getLsbD 0 = b := by
  rw [field, ← BitVec.setWidth_eq_extractLsb' (by decide), BitVec.setWidth_one,
    BitVec.ofBool_eq_iff_eq]

theorem decode_tick_iff {x : Sample} : decode w = .ok (.tick x) ↔ w = encode (.tick x) := by
  rw [eq_encode_tick_iff]
  simp [decode_eq_ok_iff, eq_comm]

theorem decode_ctrl_iff {cv knob : Control} :
    decode w = .ok (.ctrl cv knob) ↔ w = encode (.ctrl cv knob) := by
  rw [eq_encode_ctrl_iff]
  simp [decode_eq_ok_iff, eq_comm]

theorem decode_trig_iff {edge : Bool} : decode w = .ok (.trig edge) ↔ w = encode (.trig edge) := by
  rw [eq_encode_trig_iff, field_bit_iff]
  simp [decode_eq_ok_iff, eq_comm]

theorem decode_rdreg_iff {rn : BitVec 4} :
    decode w = .ok (.rdreg rn) ↔ w = encode (.rdreg rn) ∧ rn.toNat ≤ 9 := by
  rw [eq_encode_rdreg_iff]
  simp only [decode_eq_ok_iff, reduceCtorEq, and_false, false_or, or_false, Instr.rdreg.injEq]
  grind

end

/-! ### `MODE` (R71, R73) -/

/-- Sixteen low nibbles: the write enables are kept, and a value bit is kept where its enable is 1.
-/
theorem encode_mode_nibble : ∀ n : BitVec 4,
    encode (.mode (modeOperand (n.getLsbD 0) (n.getLsbD 2))
        (modeOperand (n.getLsbD 1) (n.getLsbD 3))) =
      (4#4 ++ 0#24 ++ n) &&& (if n.getLsbD 2 then 0xFFFFFFFF else 0xFFFFFFFE)
        &&& (if n.getLsbD 3 then 0xFFFFFFFF else 0xFFFFFFFD) := by
  decide

theorem encode_of_decode_mode {w : Word} {fb dly : Option Bool}
    (h : decode w = .ok (.mode fb dly)) :
    encode (.mode fb dly) = w &&& (if w.getLsbD 2 then 0xFFFFFFFF else 0xFFFFFFFE)
      &&& (if w.getLsbD 3 then 0xFFFFFFFF else 0xFFFFFFFD) := by
  obtain ⟨hop, hzero, rfl, rfl⟩ : field 28 4 w = 4 ∧ field 4 24 w = 0 ∧
      fb = modeOperand (w.getLsbD 0) (w.getLsbD 2) ∧
      dly = modeOperand (w.getLsbD 1) (w.getLsbD 3) := by simpa using decode_cases h
  have hword : w = 4#4 ++ 0#24 ++ field 0 4 w :=
    (append_fields_iff 4#4 0#24 (field 0 4 w) w).2 ⟨hop, hzero, rfl⟩
  have hnibble := encode_mode_nibble (field 0 4 w)
  rw [← hword] at hnibble
  simpa [field] using hnibble

theorem decode_encode_mode (fb dly : Option Bool) :
    decode (encode (.mode fb dly)) = .ok (.mode fb dly) := by
  revert fb dly
  decide

/-! ### Both directions -/

/-- Settles O3: the fields of an encoded command are the opcode, zeros and the operands it was put
together from, and for `MODE` each of the nine commands is evaluated. -/
theorem decodeOfEncode : Obligations.DecodeOfEncode := by
  intro i hi
  cases i with
  | nop => exact (decode_nop_iff _).2 rfl
  | tick x => exact decode_tick_iff.2 rfl
  | ctrl cv knob => exact decode_ctrl_iff.2 rfl
  | trig edge => exact decode_trig_iff.2 rfl
  | mode fb dly => exact decode_encode_mode fb dly
  | rdreg rn => exact decode_rdreg_iff.2 ⟨rfl, of_decide_eq_true hi⟩
  | reset => exact (decode_reset_iff _).2 rfl

/-- A command other than `MODE` has one word. -/
theorem eq_encode_of_decode {w : Word} {i : Instr} (h : decode w = .ok i)
    (hi : ∀ fb dly, i ≠ .mode fb dly) : w = encode i := by
  cases i with
  | nop => exact (decode_nop_iff w).1 h
  | tick x => exact decode_tick_iff.1 h
  | ctrl cv knob => exact decode_ctrl_iff.1 h
  | trig edge => exact decode_trig_iff.1 h
  | mode fb dly => exact absurd rfl (hi fb dly)
  | rdreg rn => exact (decode_rdreg_iff.1 h).1
  | reset => exact (decode_reset_iff w).1 h

/-- The words with `MODE`'s opcode that decode are `MODE`'s. -/
theorem mode_opcode_iff {w : Word} {i : Instr} (h : decode w = .ok i) :
    w &&& 0xF0000000 = 0x40000000 ↔ ∃ fb dly, i = .mode fb dly := by
  rw [and_mask_eq_iff 28 0 4 rfl (by decide) (by decide)]
  obtain ⟨hop, -, rfl⟩ | ⟨hop, -, rfl⟩ | ⟨hop, rfl⟩ | ⟨hop, -, rfl⟩ | ⟨hop, -, rfl⟩ |
    ⟨hop, -, -, rfl⟩ | ⟨hop, -, rfl⟩ := decode_cases h
  all_goals simp [hop, BitVec.of_length_zero]

/-- Settles O4: a `MODE` word loses the value bits that are ignored, and another command has one
word. -/
theorem encodeOfDecode : Obligations.EncodeOfDecode := by
  intro w i h
  refine ⟨decode_wellFormed h, ?_⟩
  by_cases hmode : ∃ fb dly, i = .mode fb dly
  · rw [if_pos ((mode_opcode_iff h).2 hmode)]
    obtain ⟨fb, dly, rfl⟩ := hmode
    exact encode_of_decode_mode h
  · rw [if_neg (mt (mode_opcode_iff h).1 hmode)]
    exact (eq_encode_of_decode h fun fb dly hi => hmode ⟨fb, dly, hi⟩).symm

/-- Settles O1: each of the eleven words is evaluated. -/
theorem knownWordsDecode : Obligations.KnownWordsDecode := by
  unfold Obligations.KnownWordsDecode
  decide

end Sys2Proof
end

section
/-! PROOFS. The parameters this hardware takes (00_scope.md R7) and the invariant of 10_state.md
section 5: it holds after a reset and at power-on, and every step keeps it, whatever valid
parameters. -/

namespace Sys2Proof.Machine

/-! ### The parameters (R7) -/

/-- Settles O50: the table and the lengths are evaluated, and the pseudo-random map's one cycle
makes it a bijection. -/
theorem hardwareParametersAreValid : Obligations.HardwareParametersAreValid where
  lenInit_ge := by decide
  lenInit_le := by decide
  rampInc_pos := by decide
  lut_size := rfl
  lut_mono := by decide
  lut_first := rfl
  lut_last := rfl
  lfsr_bijective := lfsrAdvance_hw_bijective
  lfsr_zero := lfsrAdvance_zero hw

/-! ### Where the invariant starts -/

theorem afterReset_inv {c : Config} (hc : c.Valid) {m : Memory} (hm : Memory.wf m = true) :
    Inv c (State.afterReset c m) :=
  ⟨hm, fun _ => afterReset_regsOk hc m⟩

/-- A block between power-on and its first reset is not in service, so nothing is asked of its
registers. -/
theorem powerOn_inv (c : Config) {m : Memory} (hm : Memory.wf m = true) :
    Inv c (State.powerOn m) :=
  ⟨hm, nofun⟩

/-- Settles O47: `hw` is valid, and no slot need be listed. -/
theorem invariantHoldsAtReset : Obligations.InvariantHoldsAtReset :=
  ⟨fun _ hm => ⟨afterReset_inv hardwareParametersAreValid hm, powerOn_inv hw hm⟩, bufOf_wf, rfl,
    afterReset_inv hardwareParametersAreValid reset_buf_wf⟩

/-! ### What keeps it -/

/-- The reset pin, whatever it found in the registers. -/
theorem resetPin_inv {c : Config} (hc : c.Valid) {s : State} (hm : Memory.wf s.buf = true) :
    Inv c (resetPin c s) :=
  ⟨hm, fun _ => afterReset_regsOk hc s.buf⟩

/-- A command keeps the registers of a block in service in their ranges, and `RESET` puts them
there. -/
theorem execWith_inv {c : Config} (hc : c.Valid) {i : Instr} {s t : State} (hs : Inv c s)
    (h : execWith c i s = .next t) : Inv c t := by
  obtain ⟨hm, hregs⟩ := hs
  obtain ⟨hblock, -, -, -, hservice⟩ := execWith_cases h
  rw [Inv, hblock]
  refine ⟨runCommand_wf c i hm, fun ht => ?_⟩
  obtain rfl | hservice := hservice.1 ht
  · exact afterReset_regsOk hc s.buf
  · exact runCommand_regsOk hc i (hregs hservice)

theorem abandon_inv {c : Config} (hc : c.Valid) (w : Word) {s : State}
    (hm : Memory.wf s.buf = true) : Inv c (abandon c (execWith c) w s) := by
  refine resetPin_inv hc ?_
  show Memory.wf (if Config.abandonedWrite s.abandons then bufAfter (execWith c) w s else s.buf) =
    true
  split
  · exact bufAfter_wf w hm
  · exact hm

theorem stepWith_inv {c : Config} (hc : c.Valid) {s t : State} (hs : Inv c s)
    (h : stepWith c s = .next t) : Inv c t := by
  have ⟨hm, _⟩ := hs
  obtain ⟨-, rfl⟩ | ⟨w, rest, i, -, -, -, hrun⟩ | ⟨w, rest, e, -, -, -, rfl⟩ | ⟨rest, -, rfl⟩ |
    ⟨w, rest, -, rfl⟩ := stepBy_cases h
  · exact hs
  · exact execWith_inv hc (s := { s with inbox := rest }) hs hrun
  · exact hs
  · exact resetPin_inv hc hm
  · exact abandon_inv hc w hm

/-- Settles O51: a reset puts every register in its range, and each thing a step can do keeps the
invariant. -/
theorem everyConfigKeepsTheRanges : Obligations.EveryConfigKeepsTheRanges := by
  refine fun c hc => ⟨fun _ => afterReset_inv hc, fun _ _ => stepWith_inv hc, fun i s t hs h => ?_⟩
  obtain ⟨hblock, -⟩ := execWith_cases h
  rw [hblock]
  exact runCommand_regsOk hc i hs

/-- Settles O48: this hardware's step is the step at its parameters, which are valid. -/
theorem everyStepKeepsTheInvariant : Obligations.EveryStepKeepsTheInvariant := by
  intro s t hs h
  rw [step_eq_stepWith] at h
  exact stepWith_inv hardwareParametersAreValid hs h

end Sys2Proof.Machine
end

section
/-! PROOFS. The mapper's monotonicity for every table 00_scope.md section 3 allows
(40_control_mapper_and_ramp.md sections 2 and 3): along the table, from octave to octave, and
through the scaling and the clamp. -/

namespace Sys2Proof.Machine

/-- A shift by at least one place less gives no less, for a value at least half as large. -/
theorem ediv_two_pow_le {m m' : Int} {j k : Nat} (hm' : 0 ≤ m') (hm : m ≤ m' * 2) (hjk : j < k) :
    m / 2 ^ k ≤ m' / 2 ^ j := by
  obtain ⟨d, rfl⟩ := Nat.exists_eq_add_of_lt hjk
  have hpow : (2 : Int) ^ 1 ≤ 2 ^ (d + 1) := pow_le_pow_right₀ one_le_two (Nat.le_add_left 1 d)
  calc m / 2 ^ (j + d + 1) ≤ m' * 2 ^ (d + 1) / 2 ^ (j + d + 1) :=
        Int.ediv_le_ediv (by positivity) (hm.trans (mul_le_mul_of_nonneg_left hpow hm'))
    _ = m' / 2 ^ j := by
        rw [Nat.add_assoc, pow_add 2 j, Int.mul_ediv_mul_of_pos_left _ _ (by positivity)]

section
variable {c : Config} (hc : c.Valid)
include hc

/-! ### The table (R83) -/

theorem lutAt_mono {i j : Nat} (hij : i ≤ j) (hj : j ≤ 32) : lutAt c i ≤ lutAt c j := by
  induction j, hij using Nat.le_induction with
  | base => exact le_rfl
  | succ j _ ih => exact (ih (by omega)).trans (hc.lut_mono j (by omega))

/-! ### The transfer function (R84) -/

/-- `mant` lies between the two entries it interpolates. -/
theorem mantissa_between (v : BitVec 12) :
    lutAt c (v.toNat / 16 % 32) ≤ mantissa c v ∧
      mantissa c v ≤ lutAt c (v.toNat / 16 % 32 + 1) := by
  have hrise := hc.lut_mono (v.toNat / 16 % 32) (Nat.mod_lt _ (by decide))
  have hbetween := mul_ediv_between
    (lutAt c (v.toNat / 16 % 32 + 1) - lutAt c (v.toNat / 16 % 32))
    (Nat.mod_lt v.toNat (by decide : 16 > 0))
  rw [Nat.cast_ofNat] at hbetween
  rw [mantissa_eq]
  omega

/-- `mant` lies in one octave, both ends included (log 16). -/
theorem mantissa_octave (v : BitVec 12) : 65536 ≤ mantissa c v ∧ mantissa c v ≤ 131072 := by
  obtain ⟨hlo, hhi⟩ := mantissa_between hc v
  have hfirst := lutAt_mono hc (Nat.zero_le (v.toNat / 16 % 32)) (by omega)
  have hlast := lutAt_mono hc (i := v.toNat / 16 % 32 + 1) (by omega) le_rfl
  rw [hc.lut_first] at hfirst
  rw [hc.lut_last] at hlast
  omega

/-- Within an octave, `mant` rises from entry to entry and between neighbours. -/
theorem mantissa_mono {v v' : BitVec 12} (hv : v.toNat % 512 ≤ v'.toNat % 512) :
    mantissa c v ≤ mantissa c v' := by
  obtain hidx | hidx : v.toNat / 16 % 32 = v'.toNat / 16 % 32 ∨
    v.toNat / 16 % 32 + 1 ≤ v'.toNat / 16 % 32 := by omega
  · have hfr : v.toNat % 16 ≤ v'.toNat % 16 := by omega
    have hrise := hc.lut_mono (v'.toNat / 16 % 32) (Nat.mod_lt _ (by decide))
    rw [mantissa_eq, mantissa_eq, hidx]
    exact Int.add_le_add_left (Int.ediv_le_ediv (by decide)
      (mul_le_mul_of_nonneg_left (Int.ofNat_le.2 hfr) (Int.sub_nonneg_of_le hrise))) _
  · calc mantissa c v ≤ lutAt c (v.toNat / 16 % 32 + 1) := (mantissa_between hc v).2
      _ ≤ lutAt c (v'.toNat / 16 % 32) := lutAt_mono hc hidx (by omega)
      _ ≤ mantissa c v' := (mantissa_between hc v').1

/-- In a later octave `mant` is at least half as large and the shift is shorter. -/
theorem expo_mono {v v' : BitVec 12} (hv : v.toNat ≤ v'.toNat) : expo c v ≤ expo c v' := by
  have hlt := v'.isLt
  rw [expo_eq, expo_eq]
  obtain hoct | hoct : v.toNat / 512 = v'.toNat / 512 ∨ v.toNat / 512 < v'.toNat / 512 := by omega
  · rw [hoct]
    exact Int.ediv_le_ediv (by positivity) (mantissa_mono hc (by omega))
  · obtain ⟨-, hhi⟩ := mantissa_octave hc v
    obtain ⟨hlo, -⟩ := mantissa_octave hc v'
    exact ediv_two_pow_le (by omega) (by omega) (by omega)

/-! ### The mapped target (R85) -/

theorem scaleTarget_mono {v v' : BitVec 12} (hv : v.toNat ≤ v'.toNat) :
    (scaleTarget c v).toNat ≤ (scaleTarget c v').toNat := by
  have hexpo := expo_mono hc hv
  have hclamp := clamp_mono (lo := lenMin) (hi := lenMax) (by decide)
    (Int.ediv_le_ediv (by decide : (0 : Int) < 65536)
      (mul_le_mul_of_nonneg_right hexpo (Int.natCast_nonneg c.timeScale.toNat)))
  rw [← asr_sixteen, ← asr_sixteen, ← scaleTarget_toNat, ← scaleTarget_toNat] at hclamp
  exact Int.ofNat_le.1 hclamp

theorem mapTarget_antitone {cv knob cv' knob' : Control} (hcv : cv.toInt ≤ cv'.toInt)
    (hknob : knob.toInt ≤ knob'.toInt) :
    (mapTarget c cv' knob').toNat ≤ (mapTarget c cv knob).toNat := by
  refine scaleTarget_mono hc ?_
  have hclamp := clamp_mono (lo := 0) (hi := 4095) (by decide) (Int.add_le_add hcv hknob)
  rw [← combine_toNat, ← combine_toNat] at hclamp
  have hinvert := invert_toNat (combine cv knob)
  have hinvert' := invert_toNat (combine cv' knob')
  omega

end

/-- Settles O27: the clamped product is the mapper's definition, and every step of it is monotone
but the inversion of the controls. -/
theorem mapperIsMonotone : Obligations.MapperIsMonotone :=
  ⟨fun c cv knob => ⟨mapTarget_toNat c cv knob, mapTarget_inRange c cv knob⟩,
    fun _ hc => ⟨fun _ _ => scaleTarget_mono hc, fun _ _ _ _ => mapTarget_antitone hc⟩⟩

end Sys2Proof.Machine
end

section
/-! PROOFS. The buffer as data: a canonical form is fixed by the samples it holds (20_memory.md
section 1, log 2), and 4096 ticks write every slot (70_reset_and_hazards.md section 2). -/

namespace Sys2Proof.Machine

/-! ### The canonical form -/

/-- A canonical list lists no slot below the one it starts at. -/
theorem lookup_of_lt {lo a : Nat} {m : Memory} (hm : wfFrom lo m = true) (ha : a < lo) :
    lookup m a = bufInit a := by
  induction m generalizing lo with
  | nil => rfl
  | cons p m ih =>
    obtain ⟨k, v⟩ := p
    obtain ⟨hlo, -, -, htail⟩ := wfFrom_cons.1 hm
    rw [lookup, if_neg (by omega), ih htail (by omega)]

theorem lookup_cons_self (k : Nat) (v : Sample) (m : Memory) : lookup ((k, v) :: m) k = v :=
  if_pos rfl

/-- The first slot of a canonical list holds a value no unlisted slot reads as. -/
theorem lookup_head_ne {lo k : Nat} {v : Sample} {m : Memory}
    (hm : wfFrom lo ((k, v) :: m) = true) : lookup ((k, v) :: m) k ≠ bufInit k := by
  obtain ⟨-, -, hv, -⟩ := wfFrom_cons.1 hm
  rwa [lookup_cons_self]

/-- The first slot of one list is not before that of another that reads the same. -/
theorem head_le_of_lookup_eq {lo lo' k k' : Nat} {v v' : Sample} {m m' : Memory}
    (hm : wfFrom lo ((k, v) :: m) = true) (hm' : wfFrom lo' ((k', v') :: m') = true)
    (h : ∀ a < 4096, lookup ((k, v) :: m) a = lookup ((k', v') :: m') a) : k' ≤ k := by
  obtain ⟨-, hk, -, -⟩ := wfFrom_cons.1 hm
  obtain ⟨-, hhead'⟩ := wfFrom_cons.1 hm'
  by_contra! hlt
  have hunlisted := lookup_of_lt (wfFrom_cons.2 ⟨le_rfl, hhead'⟩) hlt
  exact lookup_head_ne hm ((h k hk).trans hunlisted)

/-- Canonical lists that read the same have the same first slot with the same value, and tails that
read the same. -/
theorem eq_of_lookup_eq {lo lo' : Nat} {m m' : Memory} (hm : wfFrom lo m = true)
    (hm' : wfFrom lo' m' = true) (h : ∀ a < 4096, lookup m a = lookup m' a) : m = m' := by
  induction m generalizing lo lo' m' with
  | nil =>
    cases m' with
    | nil => rfl
    | cons p' m' => exact absurd (h p'.1 (wfFrom_cons.1 hm').2.1).symm (lookup_head_ne hm')
  | cons p m ih =>
    cases m' with
    | nil => exact absurd (h p.1 (wfFrom_cons.1 hm).2.1) (lookup_head_ne hm)
    | cons p' m' =>
      obtain ⟨k, v⟩ := p
      obtain ⟨k', v'⟩ := p'
      obtain rfl : k = k' := le_antisymm (head_le_of_lookup_eq hm' hm fun a ha => (h a ha).symm)
        (head_le_of_lookup_eq hm hm' h)
      obtain ⟨-, hk, -, htail⟩ := wfFrom_cons.1 hm
      obtain ⟨-, -, -, htail'⟩ := wfFrom_cons.1 hm'
      obtain rfl : v = v' := by simpa only [lookup_cons_self] using h k hk
      obtain rfl : m = m' := ih htail htail' fun a ha => by
        obtain rfl | hak := eq_or_ne a k
        · rw [lookup_of_lt htail (Nat.lt_succ_self a), lookup_of_lt htail' (Nat.lt_succ_self a)]
        · simpa only [lookup, if_neg hak] using h a ha
      rfl

/-- Settles O45: every listed slot is one of the 4096, so the lists read the same everywhere. -/
theorem canonicalBuffersAreEqual : Obligations.CanonicalBuffersAreEqual := by
  intro m m' hm hm' h
  refine eq_of_lookup_eq hm hm' fun a ha => ?_
  have hslot := h (BitVec.ofNat 12 a)
  rwa [memRead, memRead, BitVec.toNat_ofNat, Nat.mod_eq_of_lt ha] at hslot

/-! ### Silence -/

/-- Every slot is 1 to 4096 behind the cursor. -/
theorem exists_slotBehind (w j : Slot) : ∃ k, 1 ≤ k ∧ k ≤ 4096 ∧ slotBehind w k = j := by
  have hw := w.isLt
  have hj := j.isLt
  obtain ⟨k, hpos, hle, hk⟩ : ∃ k : Nat, 1 ≤ k ∧ k ≤ 4096 ∧
      ((w.toNat : Int) - k) % 4096 = j.toNat :=
    ⟨(w.toNat + 4095 - j.toNat) % 4096 + 1, by omega, by omega, by omega⟩
  refine ⟨k, hpos, hle, BitVec.eq_of_toNat_eq ?_⟩
  have hslot := slotBehind_toNat w k
  omega

/-- Settles O44: without feedback the slot `k` behind the cursor holds the input of `k` ticks ago,
and after 4096 ticks that is one of the first 4096 for every slot. -/
theorem silenceFlushesTheBuffer : Obligations.SilenceFlushesTheBuffer := by
  intro c x st hrun hfb hx j
  obtain ⟨k, hpos, hle, rfl⟩ := exists_slotBehind (st 4096).wcur j
  rw [hrun.memRead_input hfb hpos hle hle]
  exact hx _ (by omega)

end Sys2Proof.Machine
end

section
/-! PROOFS. The command port (30_encoding.md sections 2 and 5) and the reset pin
(70_reset_and_hazards.md section 1): what a step does with each event, with an empty stream, and
before the first reset; and the machine with parameters behind it (00_scope.md section 3). -/

namespace Sys2Proof.Machine

/-! ### A word on the port (R62, R181) -/

theorem mayRun_iff {i : Instr} {s : State} :
    mayRun i s = true ↔ s.inService = true ∨ i = .reset := by
  simp [mayRun]

/-- On a block never reset a word is refused, legal or not, unless it is `RESET`. -/
theorem accept_beforeReset {ex : Executor} {w : Word} {s : State} (hs : s.inService = false)
    (hw : decode w ≠ .ok .reset) : accept ex w s = .refused .beforeReset := by
  cases hd : decode w with
  | ok i =>
    have hrun : ¬mayRun i s = true := fun hrun =>
      (mayRun_iff.1 hrun).elim (fun hs' => Bool.false_ne_true (hs.symm.trans hs'))
        fun hi => hw (hi ▸ hd)
    simp only [accept, hd, if_neg hrun]
  | error e => simp only [accept, hd, hs, Bool.false_eq_true, if_false]

/-- A step runs the command that the word at the head of the stream decodes to. -/
theorem stepBy_legal {c : Config} {ex : Executor} {s : State} {w : Word} {rest : List PortEvent}
    {i : Instr} (h : s.inbox = .cmd w :: rest) (hd : decode w = .ok i)
    (hi : s.inService = true ∨ i = .reset) : stepBy c ex s = ex i { s with inbox := rest } := by
  simp only [stepBy, h]
  exact accept_legal hd (mayRun_iff.2 hi)

/-- A word of 32 bits is put on the port whole. -/
theorem withFetchWord_toNat (s : State) (w : Word) : s.withFetchWord 32 w.toNat = putWord s w := by
  rw [State.withFetchWord, Nat.mod_eq_of_lt w.isLt, BitVec.ofNat_toNat, BitVec.setWidth_eq]

/-- Settles O5: the word is accepted and runs, and `withFetchWord` puts it at the head of the stream
of a block in service. -/
theorem stepRunsDecodedCommand : Obligations.StepRunsDecodedCommand := by
  refine ⟨fun s w rest i => stepBy_legal, fun s w i hd => ?_⟩
  rw [withFetchWord_toNat]
  exact stepBy_legal (putWord_inbox s w) hd (.inl rfl)

/-- Settles O55: `exec` is `execWith hw` command by command, and a step with any parameters accepts
the word as this hardware's does. -/
theorem hardwareIsTheMachineAtItsParameters : Obligations.HardwareIsTheMachineAtItsParameters :=
  ⟨exec_eq_execWith, step_eq_stepWith, fun _ _ _ _ _ => stepBy_legal⟩

/-! ### Illegal words (R70) -/

/-- The numbers 10 to 15 name no register. -/
theorem regOfNum_reserved : ∀ rn : BitVec 4, 10 ≤ rn.toNat → regOfNum rn = none := by decide

/-- Settles O6: the word is rejected, and `RDREG` of a number that names no register rejects too. -/
theorem illegalWordIsFlaggedAndIgnored : Obligations.IllegalWordIsFlaggedAndIgnored :=
  ⟨fun _ _ _ _ h hd hs => (step_cmd h).trans (accept_illegal hd hs),
    fun s rn hrn => exec_rdreg_reserved (regOfNum_reserved rn hrn) s⟩

/-! ### No word (R173), and no reset yet (R181) -/

/-- Settles O7: a step with an empty stream is `idle`. -/
theorem idleBlockHoldsItsState : Obligations.IdleBlockHoldsItsState := by
  intro s h
  simp only [step, stepBy, h, idle]

/-- Settles O8: a block never reset refuses what does not decode to `RESET`, whose word runs from
power-on. -/
theorem onlyResetRunsBeforeReset : Obligations.OnlyResetRunsBeforeReset := by
  refine ⟨fun s w rest h hs hw => ?_, fun b => ?_⟩
  · exact (step_cmd h).trans (accept_beforeReset hs hw)
  · exact (stepBy_legal rfl ((decode_reset_iff _).2 rfl) (.inr rfl)).trans (exec_reset _)

/-! ### The reset pin (R180) -/

/-- Settles O9: the pin and `RESET` both return the registers to `Block.afterReset`. -/
theorem resetPinActsAsReset : Obligations.ResetPinActsAsReset := by
  intro s rest h
  refine ⟨?_, step_rst h, exec_reset _⟩
  simp only [State.cmdReady, h]

/-- The whole of a command leaves the buffer as it was, or is a tick and writes the slot at the
cursor. -/
theorem bufAfter_cases (w : Word) (s : State) :
    bufAfter exec w s = s.buf ∨ ∃ x, decode w = .ok (.tick x) ∧
      bufAfter exec w s = memWrite s.buf s.wcur (tickWritten hw x s.toBlock) := by
  unfold bufAfter
  split
  · rename_i i hd
    rw [exec_eq_execWith]
    obtain h | ⟨x, rfl, h⟩ := runCommand_buf hw i s.toBlock
    · exact .inl h
    · exact .inr ⟨x, hd, h⟩
  · exact .inl rfl

/-- The buffer after a command cut short: as it was, or with the slot at the cursor as a tick writes
it (93_implementation_defined.md U3). -/
theorem abandon_buf_cases (c : Config) (w : Word) (s : State) :
    (abandon c exec w s).buf = s.buf ∨ ∃ x, decode w = .ok (.tick x) ∧
      (abandon c exec w s).buf = memWrite s.buf s.wcur (tickWritten hw x s.toBlock) := by
  rw [abandon_toBlock, blockAfterReset_buf]
  split
  · exact bufAfter_cases w s
  · exact .inl rfl

/-- Settles O10: the pulse resets the registers over a buffer that is as it was or has one slot
written. -/
theorem abandonedCommandTouchesOneSlot : Obligations.AbandonedCommandTouchesOneSlot := by
  intro s w rest h
  refine ⟨by simp only [State.cmdReady, h],
    (abandon hw exec w { s with inbox := rest }).buf, step_rstDuring h, ?_⟩
  obtain hbuf | ⟨x, hd, hbuf⟩ := abandon_buf_cases hw w { s with inbox := rest } <;> rw [hbuf]
  · exact ⟨fun _ _ => rfl, .inl rfl⟩
  · exact ⟨fun j hj => memRead_memWrite_other hj _ _,
      .inr ⟨x, hd, memRead_memWrite_self _ _ _⟩⟩

end Sys2Proof.Machine
end

section
/-! PROOFS. What a command reads and what it writes: the registers and slots each one leaves alone
(10_state.md sections 2 and 7, 20_memory.md section 1, 43_sample_processor.md section 2), and the
commands that commute (60_exceptions.md section 2). -/

namespace Sys2Proof.Machine

/-! ### The block alone (10_state.md section 7) -/

/-- Settles O56: `execWith` commits `runCommand` of the block. -/
theorem commandsActOnTheBlockAlone : Obligations.CommandsActOnTheBlockAlone := by
  intro c i s s' h
  obtain ⟨t, ht⟩ := execWith_completes c i s
  obtain ⟨t', ht'⟩ := execWith_completes c i s'
  obtain ⟨hblock, hrsp, hinbox, habandons, -⟩ := execWith_cases ht
  obtain ⟨hblock', hrsp', -⟩ := execWith_cases ht'
  rw [← h] at hblock' hrsp'
  exact ⟨t, t', ht, ht', hblock.trans hblock'.symm, hrsp.trans hrsp'.symm,
    Prod.ext hblock hrsp, hinbox, habandons⟩

/-! ### The tick (43_sample_processor.md section 2) -/

/-- Settles O20: a tick writes none of these, and with the window idle `LFSR` and `BCNT` are written
back to themselves. -/
theorem tickFrameOnRegisters : Obligations.TickFrameOnRegisters := by
  refine fun s x => ⟨_, exec_tick x s, rfl, rfl, rfl, rfl, rfl, rfl, fun hidle => ⟨?lfsr, ?bcnt⟩⟩
  case lfsr =>
    show burstReg hw s.lfsr s.bcnt = s.lfsr
    rw [hidle, burstReg_closed]
  case bcnt =>
    show burstCount s.bcnt = s.bcnt
    rw [hidle]
    rfl

/-- Settles O52: the input reaches the sample written and nothing else, and none of the tick's
values reads `LASTOUT` or `RDPOS`. -/
theorem tickOutputIgnoresItsInput : Obligations.TickOutputIgnoresItsInput :=
  ⟨fun s x x' => ⟨_, _, exec_tick x s, exec_tick x' s, rfl, rfl, rfl, rfl⟩, fun _ _ _ _ => rfl⟩

/-! ### The buffer (20_memory.md section 1) -/

/-- No register and no status bit shows the buffer. -/
theorem readReg_setBuf (b : Block) (m : Memory) (r : Reg) :
    ({ b with buf := m } : Block).readReg r = b.readReg r := by
  cases r <;> rfl

/-- A command other than `TICK` takes the buffer along as it is. -/
theorem runCommand_setBuf (c : Config) {i : Instr} (hi : isTick i = false) (b : Block)
    (m : Memory) :
    runCommand c i { b with buf := m } =
      ({ (runCommand c i b).1 with buf := m }, (runCommand c i b).2) := by
  cases i with
  | tick x => exact nomatch hi
  | rdreg rn =>
    show runRdreg rn { b with buf := m } = ({ (runRdreg rn b).1 with buf := m }, (runRdreg rn b).2)
    cases hrn : regOfNum rn with
    | none => rw [runRdreg_reserved hrn, runRdreg_reserved hrn]
    | some r => rw [runRdreg_legal hrn, runRdreg_legal hrn, readReg_setBuf]
  | _ => rfl

/-- Settles O21: only a tick writes the buffer, and the other commands take any buffer along. -/
theorem onlyTickReachesTheBuffer : Obligations.OnlyTickReachesTheBuffer := by
  intro i s t hi h
  refine ⟨fun j => ?_, fun m => ?_⟩
  · by_cases hbuf : t.buf = s.buf
    · rw [hbuf]
    · exact absurd (exec_changes_buf h hbuf) (Bool.eq_false_iff.1 hi)
  · rw [exec_eq_execWith] at h ⊢
    obtain rfl := Host.Outcome.next.inj h
    have hrun := runCommand_setBuf hw hi s.toBlock m
    simp only [execWith, State.commit, hrun]

/-! ### The registers (10_state.md section 2) -/

/-- Settles O22: the block after a command is `runCommand`'s, which writes what the command's row of
R26 lists and leaves the other registers as they were. -/
theorem writersOfEachRegister : Obligations.WritersOfEachRegister := by
  intro i s t h hi
  rw [exec_eq_execWith] at h
  obtain ⟨hblock, -⟩ := execWith_cases h
  rw [hblock]
  cases i with
  | nop => simp [runCommand, runNop]
  | tick x => simp [runCommand, isTick]
  | ctrl cv knob => simp [runCommand]
  | trig edge => cases edge <;> simp [runCommand]
  | mode fb dly => simp [runCommand]
  | rdreg rn => simp [runCommand]
  | reset => exact absurd rfl hi

/-! ### The commands that commute (60_exceptions.md section 2) -/

/-- `NOP` and `RDREG` change nothing but the response. -/
theorem exec_sameState {i : Instr} (hi : i = .nop ∨ ∃ rn, i = .rdreg rn) (s : State) :
    ∃ t, exec i s = .next t ∧ SameState s t := by
  obtain rfl | ⟨rn, rfl⟩ := hi
  · exact ⟨_, exec_nop s, rfl⟩
  · refine ⟨_, exec_eq_execWith _ s, ?_⟩
    show SameState s (s.commit (runRdreg rn s.toBlock))
    rw [SameState, State.commit, runRdreg_block]

/-- No command reads the last response. -/
theorem exec_congr (i : Instr) {s s' : State} (h : SameState s s') : exec i s = exec i s' := by
  have hrsp (u : State) : exec i u = exec i { u with rsp := none } := by
    rw [exec_eq_execWith, exec_eq_execWith, execWith, execWith, State.commit, State.commit]
  rw [hrsp s, hrsp s', h]

/-- A command that changes nothing but the response commutes with every command. -/
theorem exec_comm_of_sameState {i : Instr} (hi : i = .nop ∨ ∃ rn, i = .rdreg rn) (j : Instr)
    (s : State) : ∃ si sj sij sji : State, exec i s = .next si ∧ exec j s = .next sj ∧
      exec j si = .next sij ∧ exec i sj = .next sji ∧ SameState sij sji := by
  obtain ⟨si, hsi, hsame⟩ := exec_sameState hi s
  obtain ⟨sj, hsj⟩ := execWith_completes hw j s
  rw [← exec_eq_execWith] at hsj
  obtain ⟨sji, hsji, hsame'⟩ := exec_sameState hi sj
  exact ⟨si, sj, sj, sji, hsi, hsj, (exec_congr j hsame).symm.trans hsj, hsji, hsame'⟩

/-- Settles O53: `CTRL`, `TRIG` and `MODE` write a register each that the other two do not read, and
`NOP` and `RDREG` write none. -/
theorem controlCommandsCommute : Obligations.ControlCommandsCommute := by
  rintro i j s (⟨cv, knob, e, rfl, rfl⟩ | ⟨cv, knob, fb, dly, rfl, rfl⟩ |
    ⟨e, fb, dly, rfl, rfl⟩ | hi)
  · exact ⟨_, _, _, _, exec_ctrl cv knob s, exec_trig e s, exec_trig e _, exec_ctrl cv knob _, rfl⟩
  · exact ⟨_, _, _, _, exec_ctrl cv knob s, exec_mode fb dly s, exec_mode fb dly _,
      exec_ctrl cv knob _, rfl⟩
  · exact ⟨_, _, _, _, exec_trig e s, exec_mode fb dly s, exec_mode fb dly _, exec_trig e _, rfl⟩
  · exact exec_comm_of_sameState hi j s

end Sys2Proof.Machine
end
